-- ==== Sys2Proof/Word.lean ====
section
/-! DEFINITION. The words of the hardware: the 25-bit instruction word and its fields, the nibble, the
DDRAM address, the encoded forms of the host's requests (30_encoding R70, R79, R80, R81, R85). -/

namespace Sys2Proof

/-- An instruction word, format IW (R70). -/
abbrev Word := BitVec 25
/-- Field `opcode`, and the operand byte of `writeCharacter` (R71, R85). -/
abbrev Byte := BitVec 8
/-- One transmitted unit, and the data latches D[3:0] (R8 NIBBLE_W, R29). -/
abbrev Nibble := BitVec 4
/-- Field `exec_delay`, and the timer's count (R72, R26). -/
abbrev Delay := BitVec 16
/-- A DDRAM address, 0x00 to 0x7F, and the cursor (R161, R186). -/
abbrev Addr := BitVec 7

/-- The three fields of an instruction word (R70). -/
structure WordFields where
  isData : Bool
  delay  : Delay
  opcode : Byte
deriving DecidableEq, Repr

/-- What a host operation looks like before it is decoded: the formats DP (R79), NIB (R80), PORT
(R81) and MACRO (R84, R85). POP has no port and so no form here (R113). -/
inductive HostWord where
  /-- One tick of the direct port, `{dir_pulse, dir_set, dir_sig[2:0], dir_bit}` (R79). -/
  | dp (pattern : BitVec 6)
  /-- A nibble-only transmission, `{rs, nib[3:0]}` (R80). -/
  | nib (pattern : BitVec 5)
  /-- `push_valid = 1` with `push_word = w` (R81, R111). -/
  | push (w : Word)
  /-- `advance = 1` (R81, R129). -/
  | advance
  /-- `set_run = 1` (R81, R139). -/
  | setRun
  /-- `rst = 1` (R81, R39). -/
  | reset
  /-- `writeCharacter(c)`: the operand byte selects the branch (R85, R192). -/
  | char (c : Byte)
  /-- `initialize()` (R84, R171). -/
  | initCall
deriving DecidableEq, Repr

/-- An encoded instruction: a word of the instruction FIFO or a host operation. -/
inductive Encoded where
  | iw (w : Word)
  | host (h : HostWord)
deriving DecidableEq, Repr

end Sys2Proof
end

