-- ==== Sys2Proof/Config.lean ====
section
/-! DEFINITION. The parameters: those the document fixes, as constants (00_scope R8), and those it leaves
open, as one record that a model takes as an argument, with the reference values (R9, R10). -/

namespace Sys2Proof

/-- QUEUE_DEPTH, the capacity of the instruction FIFO (R8). -/
def Config.queueDepth : Nat := 10

/-- TICK_NS, the period of the time base in nanoseconds. DESIGN CHOICE [4]: fixed at its reference value,
which R10 says "is assumed everywhere below". -/
def Config.tickNs : Nat := 1000

/-- EN_HIGH_MIN_NS, the least time the enable line is held asserted (R8). -/
def Config.enHighMinNs : Nat := 500

/-- Execution delay of FUNCTION_SET, DISPLAY_OFF and ENTRY_MODE_SET before the margin (R156, R157, R159). -/
def Config.shortDelay : Delay := 39
/-- Execution delay of CLEAR_DISPLAY before the margin (R158). -/
def Config.clearDelay : Delay := 1530

/-- The five bootstrap waits in ticks, BOOT_WAIT_US (R9, R172, R173). -/
structure BootWaits where
  powerOn : Nat
  after1  : Nat
  after2  : Nat
  after3  : Nat
  after4  : Nat
deriving DecidableEq, Repr

/-- The parameters the document leaves open (R9). They are constants of an instance (R34). -/
structure Params where
  /-- MIN_TICKS, ticks of the minimal timer. -/
  minTicks        : Delay
  /-- SETUP_TICKS, ticks between driving the levels and asserting enable. -/
  setupTicks      : Nat
  /-- PULSE_TICKS, ticks the enable line stays asserted. -/
  pulseTicks      : Nat
  /-- EN_ACTIVE, the asserted level of the enable line at the output (R100). -/
  enActive        : Bool
  /-- SAFETY_MARGIN_US, OPEN: added by the producer to each delay (R163). -/
  safetyMargin    : Delay
  /-- DISPLAY_ON_OPCODE (R160). -/
  displayOnOpcode : Byte
  /-- DISPLAY_ON_DELAY_US (R160). -/
  displayOnDelay  : Delay
  /-- CURSOR_SET_DELAY_US (R161). -/
  cursorSetDelay  : Delay
  /-- DATA_WRITE_DELAY_US (R162). -/
  dataWriteDelay  : Delay
  /-- CURSOR_INIT (R186). -/
  cursorInit      : Addr
  /-- BOOT_WAIT_US (R9, R174). -/
  boot            : BootWaits
deriving DecidableEq, Repr

/-- The least bootstrap waits (R9, R172, R173). -/
def BootWaits.ref : BootWaits := ⟨15000, 4100, 100, 40, 40⟩

/-- The reference values of R9; SAFETY_MARGIN_US is 0 "in the vectors" [3] [20]. -/
def Params.ref : Params where
  minTicks := 1
  setupTicks := 1
  pulseTicks := 1
  enActive := true
  safetyMargin := 0
  displayOnOpcode := 0x0C
  displayOnDelay := 39
  cursorSetDelay := 39
  dataWriteDelay := 43
  cursorInit := 0x00
  boot := BootWaits.ref

/-- The constraints between parameters (R10): the enable high time, the minimal timer, and room in the
delay field for the longest delay and the margin. The waits of the bootstrap are least values (R9). -/
abbrev Params.wf (p : Params) : Prop :=
  Config.enHighMinNs ≤ Config.tickNs * p.pulseTicks
  ∧ 1000 ≤ Config.tickNs * p.minTicks.toNat
  ∧ 1 ≤ p.pulseTicks ∧ 1 ≤ p.minTicks.toNat
  ∧ 1530 + p.safetyMargin.toNat ≤ 2 ^ 16 - 1
  ∧ BootWaits.ref.powerOn ≤ p.boot.powerOn ∧ BootWaits.ref.after1 ≤ p.boot.after1
  ∧ BootWaits.ref.after2 ≤ p.boot.after2 ∧ BootWaits.ref.after3 ≤ p.boot.after3
  ∧ BootWaits.ref.after4 ≤ p.boot.after4

end Sys2Proof
end

