-- ==== Sys2Proof/Syntax.lean ====
section
/-! DEFINITION. The instructions: one constructor for each row of spec/opcode_table.json. -/

namespace Sys2Proof

/-- The rows of the opcode table. The named instruction words keep their delay as an operand: the rows'
masks leave it free (R85), and a delay may be written after a name (R82). -/
inductive Instr where
  /-- CMD (R142): a word with `is_data = 0` that no named row refines. -/
  | cmd (opcode : Byte) (delay : Delay)
  /-- DATA_WRITE (R143): a word with `is_data = 1`. -/
  | dataWrite (opcode : Byte) (delay : Delay)
  /-- FUNCTION_SET (R156). -/
  | functionSet (delay : Delay)
  /-- DISPLAY_OFF (R157). -/
  | displayOff (delay : Delay)
  /-- CLEAR_DISPLAY (R158). -/
  | clearDisplay (delay : Delay)
  /-- ENTRY_MODE_SET (R159). -/
  | entryModeSet (delay : Delay)
  /-- DISPLAY_ON (R160). -/
  | displayOn (delay : Delay)
  /-- CURSOR_SET (R161). -/
  | cursorSet (a : Addr) (delay : Delay)
  /-- DATA_WRITE.writer (R162): the data write with the delay the character writer supplies, 43 [9]. -/
  | dataWriteWriter (c : Byte)
  /-- SETLEVEL sig, b (R91). -/
  | setLevel (sig : BitVec 3) (b : Bool)
  /-- PULSE_ENABLE (R94, R95). -/
  | pulseEnable
  /-- SETLEVEL and PULSE_ENABLE in one tick (R96). -/
  | setLevelPulse (sig : BitVec 3) (b : Bool)
  /-- SEND_NIBBLE n (R99). -/
  | sendNibble (n : Nibble)
  /-- SEND_NIBBLE 0x3 (R173). -/
  | sendNibble3
  /-- SEND_NIBBLE 0x2 (R173). -/
  | sendNibble2
  /-- PUSH w (R111). -/
  | push (w : Word)
  /-- POP (R113), internal to the advance operation. -/
  | pop
  /-- ADVANCE (R129). -/
  | advance
  /-- SET_RUN (R139). -/
  | setRun
  /-- RESET (R39, R230). -/
  | reset
  /-- writeCharacter of the reset sentinel '~' (R188). -/
  | writeCharTilde
  /-- writeCharacter of 0x08 (R189). -/
  | writeCharBackspace
  /-- writeCharacter of any other byte (R190). -/
  | writeCharOther (c : Byte)
  /-- initialize() (R171). -/
  | initCall
deriving DecidableEq, Repr

end Sys2Proof
end

