-- ==== Sys2Proof/WellFormed.lean ====
section
/-! DEFINITION. Well-formed instructions: each operand value belongs to the constructor that names it.
A word, nibble or byte that a more specific row of the opcode table describes is written with that
row's constructor (R85: "picks the matching row with the most mask bits"). Every encoding is legal
(R77); these checks only make the spelling of an instruction unique [10]. -/

namespace Sys2Proof

/-- The opcode values that the named refinements of CMD claim (R76, R85). -/
def namedOpcode (o : Byte) : Bool :=
  o = 0x28 || o = 0x08 || o = 0x01 || o = 0x06 || o = 0x0C || o.getLsbD 7

/-- The delay that names a data write as the character writer's, 43 at margin 0 (R162) [9]. -/
def writerDelay : Delay := 43

/-- Is the instruction spelled by its most specific row? -/
def WellFormed : Instr → Bool
  | .cmd o _            => !namedOpcode o
  | .dataWrite _ d      => d != writerDelay
  | .functionSet _      => true
  | .displayOff _       => true
  | .clearDisplay _     => true
  | .entryModeSet _     => true
  | .displayOn _        => true
  | .cursorSet _ _      => true
  | .dataWriteWriter _  => true
  | .setLevel _ _       => true
  | .pulseEnable        => true
  | .setLevelPulse _ _  => true
  | .sendNibble n       => n != 3 && n != 2
  | .sendNibble3        => true
  | .sendNibble2        => true
  | .push _             => true
  | .pop                => true
  | .advance            => true
  | .setRun             => true
  | .reset              => true
  | .writeCharTilde     => true
  | .writeCharBackspace => true
  | .writeCharOther c   => c != 0x7E && c != 0x08
  | .initCall         => true

end Sys2Proof
end

