-- ==== Sys2Proof/Decode.lean ====
section
/-! DEFINITION. Decoding instruction words and host operations, total, rejecting by name, and the encoder
beside it (30_encoding R70, R79, R80, R81, R85, R86). -/

namespace Sys2Proof

/-- Why an encoded host operation is no instruction. -/
inductive Reject where
  /-- The direct-port pattern `0 0 xxx x`, "no request" (R79). -/
  | noRequest
  /-- A nibble-only pattern with `rs = 1`: format NIB has `rs = 0` (R80) [12]. -/
  | nibSelectsData
deriving DecidableEq, Repr

/-- `decode(w) = (w[24], w[23:8], w[7:0])` (R86). -/
def fieldsOf (w : Word) : WordFields where
  isData := w.getLsbD 24
  delay  := w.extractLsb' 8 16
  opcode := w.extractLsb' 0 8

/-- `{is_data, exec_delay[15:0], opcode[7:0]}` (R70, R86). -/
def packWord (isData : Bool) (delay : Delay) (opcode : Byte) : Word :=
  BitVec.ofBool isData ++ delay ++ opcode

/-- The instruction in an instruction word. Total: every word is legal (R77). The named rows come first, as
R85 asks; a data write with the writer's delay is named DATA_WRITE.writer [9]. -/
def decodeWord (w : Word) : Instr :=
  let f := fieldsOf w
  if f.isData then
    if f.delay = writerDelay then .dataWriteWriter f.opcode else .dataWrite f.opcode f.delay
  else if f.opcode = 0x28 then .functionSet f.delay
  else if f.opcode = 0x08 then .displayOff f.delay
  else if f.opcode = 0x01 then .clearDisplay f.delay
  else if f.opcode = 0x06 then .entryModeSet f.delay
  else if f.opcode = 0x0C then .displayOn f.delay
  else if f.opcode.getLsbD 7 then .cursorSet (f.opcode.extractLsb' 0 7) f.delay
  else .cmd f.opcode f.delay

/-- A direct-port request (R79): `dir_pulse` is bit 5, `dir_set` bit 4, `dir_sig` bits 3 to 1, `dir_bit` bit 0. -/
def decodeDirect (p : BitVec 6) : Except Reject Instr :=
  match p.getLsbD 5, p.getLsbD 4 with
  | false, false => .error .noRequest
  | false, true  => .ok (.setLevel (p.extractLsb' 1 3) (p.getLsbD 0))
  | true,  false => .ok .pulseEnable
  | true,  true  => .ok (.setLevelPulse (p.extractLsb' 1 3) (p.getLsbD 0))

/-- A nibble-only transmission (R80, R173). -/
def decodeNibble (v : BitVec 5) : Except Reject Instr :=
  if v.getLsbD 4 then .error .nibSelectsData
  else if v = 0x03 then .ok .sendNibble3
  else if v = 0x02 then .ok .sendNibble2
  else .ok (.sendNibble (v.extractLsb' 0 4))

/-- The branch of `writeCharacter` that an operand byte selects (R85, R192, R193). -/
def decodeChar (c : Byte) : Instr :=
  if c = 0x7E then .writeCharTilde
  else if c = 0x08 then .writeCharBackspace
  else .writeCharOther c

/-- The instruction in a host operation. -/
def decodeHost : HostWord → Except Reject Instr
  | .dp p       => decodeDirect p
  | .nib v      => decodeNibble v
  | .push w     => .ok (.push w)
  | .advance    => .ok .advance
  | .setRun     => .ok .setRun
  | .reset      => .ok .reset
  | .char c     => .ok (decodeChar c)
  | .initCall => .ok .initCall

/-- The instruction in an encoded form. -/
def decode : Encoded → Except Reject Instr
  | .iw w   => .ok (decodeWord w)
  | .host h => decodeHost h

/-- The pattern of a direct-port request; bits that are not looked at are 0 (R79). -/
def encodeDirect (pulse set : Bool) (sig : BitVec 3) (b : Bool) : BitVec 6 :=
  BitVec.ofBool pulse ++ BitVec.ofBool set ++ sig ++ BitVec.ofBool b

/-- `{rs, nib[3:0]}` with `rs = 0` (R80). -/
def encodeNibble (n : Nibble) : BitVec 5 := 0#1 ++ n

/-- The encoding of an instruction. POP has none: it has no port (R113, R36). -/
def encode : Instr → Option Encoded
  | .cmd o d            => some (.iw (packWord false d o))
  | .dataWrite o d      => some (.iw (packWord true d o))
  | .functionSet d      => some (.iw (packWord false d 0x28))
  | .displayOff d       => some (.iw (packWord false d 0x08))
  | .clearDisplay d     => some (.iw (packWord false d 0x01))
  | .entryModeSet d     => some (.iw (packWord false d 0x06))
  | .displayOn d        => some (.iw (packWord false d 0x0C))
  | .cursorSet a d      => some (.iw (packWord false d (1#1 ++ a)))
  | .dataWriteWriter c  => some (.iw (packWord true writerDelay c))
  | .setLevel sig b     => some (.host (.dp (encodeDirect false true sig b)))
  | .pulseEnable        => some (.host (.dp (encodeDirect true false 0 false)))
  | .setLevelPulse s b  => some (.host (.dp (encodeDirect true true s b)))
  | .sendNibble n       => some (.host (.nib (encodeNibble n)))
  | .sendNibble3        => some (.host (.nib (encodeNibble 3)))
  | .sendNibble2        => some (.host (.nib (encodeNibble 2)))
  | .push w             => some (.host (.push w))
  | .pop                => none
  | .advance            => some (.host .advance)
  | .setRun             => some (.host .setRun)
  | .reset              => some (.host .reset)
  | .writeCharTilde     => some (.host (.char 0x7E))
  | .writeCharBackspace => some (.host (.char 0x08))
  | .writeCharOther c   => some (.host (.char c))
  | .initCall         => some (.host .initCall)

/-- The fields of the word that an instruction of format IW stands for (R76, R142, R143, R156 to R162); none
for the host's operations. -/
def wordOf : Instr → Option WordFields
  | .cmd o d            => some ⟨false, d, o⟩
  | .dataWrite o d      => some ⟨true, d, o⟩
  | .functionSet d      => some ⟨false, d, 0x28⟩
  | .displayOff d       => some ⟨false, d, 0x08⟩
  | .clearDisplay d     => some ⟨false, d, 0x01⟩
  | .entryModeSet d     => some ⟨false, d, 0x06⟩
  | .displayOn d        => some ⟨false, d, 0x0C⟩
  | .cursorSet a d      => some ⟨false, d, 1#1 ++ a⟩
  | .dataWriteWriter c  => some ⟨true, writerDelay, c⟩
  | .setLevel _ _       => none
  | .pulseEnable        => none
  | .setLevelPulse _ _  => none
  | .sendNibble _       => none
  | .sendNibble3        => none
  | .sendNibble2        => none
  | .push _             => none
  | .pop                => none
  | .advance            => none
  | .setRun             => none
  | .reset              => none
  | .writeCharTilde     => none
  | .writeCharBackspace => none
  | .writeCharOther _   => none
  | .initCall         => none

/-- A one-byte table row, the bits above its pattern zero [11]. The patterns of the formats DP, NIB and MACRO overlap
there; the row with the most fixed bits is taken, as R85 has it for words: the two named bytes of
`writeCharacter`, then `000 0nnnn` a nibble, `00 1xxxxx` and `00 01gggb` a direct-port pattern, and else
the operand byte of `writeCharacter`. -/
def tableByte (w : Byte) : HostWord :=
  if w = 0x7E || w = 0x08 then .char w
  else if w.toNat < 16 then .nib (w.setWidth 5)
  else if w.toNat < 64 then .dp (w.setWidth 6)
  else .char w

/-- The encoded form that a table row of `nbits` bits stands for: 25 bits (32 in whole bytes) a word of the
FIFO, 5 bits a nibble, 6 bits a direct-port pattern, 8 bits any of the one-byte rows [11]. -/
def tableEncoded (nbits w : Nat) : Option Encoded :=
  if nbits = 5 then (if w < 2 ^ 5 then some (.host (.nib (BitVec.ofNat 5 w))) else none)
  else if nbits = 6 then (if w < 2 ^ 6 then some (.host (.dp (BitVec.ofNat 6 w))) else none)
  else if nbits = 8 then (if w < 2 ^ 8 then some (.host (tableByte (BitVec.ofNat 8 w))) else none)
  else if 24 ≤ nbits && nbits ≤ 32 then (if w < 2 ^ 25 then some (.iw (BitVec.ofNat 25 w)) else none)
  else none

/-- The instruction the decoder reads from a table row's bits. -/
def decodeTableWord (nbits w : Nat) : Option Instr :=
  match tableEncoded nbits w with
  | some e => (match decode e with | .ok i => some i | .error _ => none)
  | none   => none

end Sys2Proof
end

