-- ==== Sys2Proof/Machine/State.lean ====
section
/-! DEFINITION. The state: the engine's tuple (10_state R20), the host side (cursor R186, program R83), the
parameters of the instance (R9, R34), the observation (R12, R15); the input and output ports (R36);
the reset state (R39); the reasons a step can stop. -/

namespace Sys2Proof.Machine

/-- `state`, the phase of the state machine (R23). -/
inductive Phase where
  /-- Nothing in flight. -/
  | idle
  /-- The high nibble waits for the minimal timer, or is being pulsed. -/
  | sendingHigh
  /-- The low nibble waits for the minimal timer, or is being pulsed. -/
  | sendingLow
  /-- Both nibbles latched; the timer counts `exec_delay`. -/
  | executing
deriving DecidableEq, Repr

/-- `p_phase`, the phase of the pulse sequencer (R27). -/
inductive PulsePhase where
  /-- No pulse in progress. -/
  | idle
  /-- Levels driven, EN still idle. -/
  | setup
  /-- EN asserted. -/
  | high
deriving DecidableEq, Repr

/-- The complete state of the engine (R20). -/
structure Engine where
  /-- The instruction FIFO, oldest first (R21). -/
  q      : List Word
  /-- The phase of the state machine (R23). -/
  state  : Phase
  /-- The in-flight instruction word (R22). -/
  active : Word
  /-- The mode bit: false direct mode, true run mode (R28). -/
  run    : Bool
  /-- One-shot timer armed (R26). -/
  tArmed : Bool
  /-- Ticks to the expiry while armed (R26). -/
  tRem   : Delay
  /-- Pulse sequencer phase (R27). -/
  pPhase : PulsePhase
  /-- Ticks remaining in the phase (R27) [22]. -/
  pRem   : Nat
  /-- Data line latches D3..D0 (R29). -/
  D      : Nibble
  /-- Register-select latch (R29). -/
  RS     : Bool
  /-- Enable latch; true is asserted (R29, R100). -/
  EN     : Bool
deriving DecidableEq, Repr

/-- The input ports in one tick interval (R36). `clk` is the step itself. -/
structure In where
  rst       : Bool := false
  pushValid : Bool := false
  pushWord  : Word := 0
  advance   : Bool := false
  setRun    : Bool := false
  dirSet    : Bool := false
  dirSig    : BitVec 3 := 0
  dirBit    : Bool := false
  dirPulse  : Bool := false
deriving DecidableEq, Repr

/-- The output ports (R36, R38). -/
structure Outputs where
  pushReady : Bool
  dirReady  : Bool
  run       : Bool
  idle      : Bool
  empty     : Bool
  D         : Nibble
  RS        : Bool
  EN        : Bool
deriving DecidableEq, Repr

/-- A latch event `Latch(t, rs, nib)`: EN falls at tick t with these levels (R15). -/
structure Latch where
  t   : Nat
  rs  : Bool
  nib : Nibble
deriving DecidableEq, Repr

/-- One line of the host's program (R83, R84). -/
inductive Line where
  /-- A host operation, decoded when the line is reached; held while it is not accepted (R83). -/
  | op (h : HostWord)
  /-- One tick with these port levels: any combination of requests (R81, R213). -/
  | ports (inp : In)
  /-- `WAIT n`: n ticks with every request input at 0 (R83). -/
  | wait (n : Nat)
  /-- `WAITIDLE`: ticks with every request input at 0 until `idle = 1` and `empty = 1` (R83). -/
  | waitIdle
  /-- `cursor <- a`, host side, no tick (R188, R190, R234 step 5) [17]. -/
  | setCursor (a : Addr)
deriving DecidableEq, Repr

/-- The host side: the character writer's cursor (R186) and the operations still to be made (R34). -/
structure Producer where
  cursor  : Addr
  program : List Line
deriving DecidableEq, Repr

/-- The machine: engine, host side, parameters of the instance, and what the display has seen. -/
structure State where
  /-- The engine (R20). -/
  eng    : Engine
  /-- The host side (R14, R186). -/
  prod   : Producer
  /-- The parameters (R9); no step changes them (R34) [3]. -/
  cfg    : Params
  /-- The tick index (R12) [13]. -/
  now    : Nat
  /-- The latch events so far, oldest first (R14, R15) [13]. -/
  events : List Latch
deriving DecidableEq, Repr

/-- Reasons to stop with a fault. There are none: "The engine raises no synchronous exception" (R205),
and nothing in it is "a trap, a hang of the engine itself, or an undefined result" (R227) [21]. -/
inductive Fault where
deriving DecidableEq, Repr

/-- Reasons a step has no meaning. -/
inductive Refusal where
  /-- An instruction whose meaning is not written yet; raised by exec's arms, by none now. Safe. -/
  | notModelled (mnemonic : String)
  /-- A host program line whose pattern is no instruction; raised by step. Safe: the machine stops [12]. -/
  | undecodable (r : Reject)
deriving DecidableEq, Repr

/-- The engine right after reset (R39). `active` is not reset (93 U1): this is the value it has at
power-on in the model, DESIGN CHOICE [5]. -/
def Engine.init : Engine where
  q := []
  state := .idle
  active := 0
  run := false
  tArmed := false
  tRem := 0
  pPhase := .idle
  pRem := 0
  D := 0
  RS := false
  EN := false

/-- The machine right after reset (R39): engine reset, cursor at CURSOR_INIT (R186), no host operation
pending [6], the reference parameters [3], nothing latched yet. -/
def State.reset : State where
  eng := Engine.init
  prod := { cursor := Params.ref.cursorInit, program := [] }
  cfg := Params.ref
  now := 0
  events := []

end Sys2Proof.Machine
end

