-- ==== Sys2Proof/Machine/Flags.lean ====
section
/-! DEFINITION. Flags. The engine has none that an instruction sets or tests (R30); what stands for them are
the status outputs, functions of the state (R36, R38, R116), and the signals of one tick (R98, R128). -/

namespace Sys2Proof.Machine

/-- `push_ready`: `len(q) < 10` (R38, R116). -/
def Engine.pushReady (e : Engine) : Bool := decide (e.q.length < Config.queueDepth)

/-- `empty`: `len(q) = 0` (R38, R116). -/
def Engine.empty (e : Engine) : Bool := e.q.isEmpty

/-- `idle`: `state = Idle` (R38). -/
def Engine.isIdle (e : Engine) : Bool := decide (e.state = .idle)

/-- `dir_ready`: `run = 0` and `p_phase = P_IDLE` (R36, R38). -/
def Engine.dirReady (e : Engine) : Bool := !e.run && decide (e.pPhase = .idle)

/-- The level of the enable line: EN at the asserted level `EN_ACTIVE`; "a model that wants the other
polarity inverts EN at the output and nothing else" (R100). -/
def Engine.enLine (p : Params) (e : Engine) : Bool := if p.enActive then e.EN else !e.EN

/-- All outputs, functions of the state alone (R12, R36, R38). -/
def Engine.outputs (p : Params) (e : Engine) : Outputs where
  pushReady := e.pushReady
  dirReady := e.dirReady
  run := e.run
  idle := e.isIdle
  empty := e.empty
  D := e.D
  RS := e.RS
  EN := e.enLine p

/-- `pulse_done`: the sequencer deasserts EN in this tick (R98). -/
def Engine.pulseDone (s : Engine) : Bool := decide (s.pPhase = .high) && decide (s.pRem ≤ 1)

/-- `fire`: the one-shot timer expires in this tick (R128). -/
def Engine.fire (s : Engine) : Bool := s.tArmed && decide (s.tRem.toNat ≤ 1)

/-- `want_advance`: the external trigger in Idle in run mode (R129), or the Executing expiry (R137). -/
def Engine.wantAdvance (s : Engine) (advance : Bool) : Bool :=
  match s.state with
  | .idle        => advance && s.run
  | .sendingHigh => false
  | .sendingLow  => false
  | .executing   => s.fire

end Sys2Proof.Machine
end

