-- ==== Sys2Proof/Machine/Operands.lean ====
section
/-! DEFINITION. Operands: what the engine derives from a word (R74), the signal numbers of the direct port
(R56), the port levels of each request (R79, R81), the words the host's agents build (R156 to R163),
the cursor functions (R187), and the register encodings of a register-level realization (R35). -/

namespace Sys2Proof

/-- `hi = w.opcode >> 4` (R74, R87 a). -/
def WordFields.hi (f : WordFields) : Nibble := f.opcode.extractLsb' 4 4

/-- `lo = w.opcode & 0x0F` (R74, R87 b). -/
def WordFields.lo (f : WordFields) : Nibble := f.opcode.extractLsb' 0 4

/-- The timer load `d = max(w.exec_delay, 1)` (R74, R128). -/
def WordFields.timerLoad (f : WordFields) : Delay := if f.delay = 0 then 1 else f.delay

namespace Machine

/-- No request (R79 "none"; R83 WAIT). -/
def In.quiet : In := {}

/-- RESET is `rst = 1` (R81). -/
def In.hardReset : In := { rst := true }

/-- PUSH w is `push_valid = 1` with `push_word = w` (R81). -/
def In.pushOf (w : Word) : In := { pushValid := true, pushWord := w }

/-- ADVANCE is `advance = 1` (R81). -/
def In.trigger : In := { advance := true }

/-- SET_RUN is `set_run = 1` (R81). -/
def In.goRun : In := { setRun := true }

/-- A direct-port request (R79). -/
def In.direct (pulse set : Bool) (sig : BitVec 3) (b : Bool) : In :=
  { dirPulse := pulse, dirSet := set, dirSig := sig, dirBit := b }

/-- The port levels of a host operation in a tick in which it is presented (R79, R81). The macros NIB and
MACRO present nothing themselves: their meanings present the first line of their expansion (R84). -/
def portsOf : HostWord → In
  | .dp p       => In.direct (p.getLsbD 5) (p.getLsbD 4) (p.extractLsb' 1 3) (p.getLsbD 0)
  | .nib _      => In.quiet
  | .push w     => In.pushOf w
  | .advance    => In.trigger
  | .setRun     => In.goRun
  | .reset      => In.hardReset
  | .char _     => In.quiet
  | .initCall => In.quiet

/-- Data latch k takes `b`, the others keep their levels (R53, R56). -/
def setDataLine (d : Nibble) (k : Nat) (b : Bool) : Nibble :=
  if b then d ||| (1#4 <<< k) else d &&& ~~~(1#4 <<< k)

/-- `PinWrite(latch(sig), b)`: 0 to 3 D0 to D3, 4 EN, 5 RS, 6 and 7 reserved and refused (R56, R91). -/
def Engine.pinWrite (e : Engine) (sig : BitVec 3) (b : Bool) : Engine :=
  if sig.toNat ≤ 3 then { e with D := setDataLine e.D sig.toNat b }
  else if sig = 4 then { e with EN := b }
  else if sig = 5 then { e with RS := b }
  else e

/-! ### The words the host's agents push (R163: the producer adds the margin) -/

/-- 0x28 with 39 and the margin (R156). -/
def functionSetWord (p : Params) : Word := packWord false (Config.shortDelay + p.safetyMargin) 0x28
/-- 0x08 with 39 and the margin (R157). -/
def displayOffWord (p : Params) : Word := packWord false (Config.shortDelay + p.safetyMargin) 0x08
/-- 0x01 with 1530 and the margin (R158). -/
def clearDisplayWord (p : Params) : Word := packWord false (Config.clearDelay + p.safetyMargin) 0x01
/-- 0x06 with 39 and the margin (R159). -/
def entryModeSetWord (p : Params) : Word := packWord false (Config.shortDelay + p.safetyMargin) 0x06
/-- DISPLAY_ON_OPCODE with DISPLAY_ON_DELAY_US and the margin (R160). -/
def displayOnWord (p : Params) : Word :=
  packWord false (p.displayOnDelay + p.safetyMargin) p.displayOnOpcode
/-- `0x80 | a` with CURSOR_SET_DELAY_US and the margin (R161). DESIGN CHOICE [26]: the opcode pattern, which R76 and
93 U14 call a parameter, is fixed at its reference. -/
def cursorSetWord (p : Params) (a : Addr) : Word :=
  packWord false (p.cursorSetDelay + p.safetyMargin) (1#1 ++ a)
/-- The byte c with DATA_WRITE_DELAY_US and the margin (R162). -/
def dataWriteWord (p : Params) (c : Byte) : Word :=
  packWord true (p.dataWriteDelay + p.safetyMargin) c

/-! ### The cursor (R187) -/

/-- `next(a)`: one on, snapping over the hidden range and wrapping past line 2 (R187). -/
def cursorNext (a : Addr) : Addr :=
  let b := a.toNat + 1
  if 0x10 ≤ b ∧ b ≤ 0x3F then 0x40 else if 0x4F < b then 0x00 else BitVec.ofNat 7 b

/-- `prev(a)`, defined for a > 0: 0x40 steps back to 0x0F (R187) [24]. -/
def cursorPrev (a : Addr) : Addr := if a = 0x40 then 0x0F else a - 1

/-- The visible range, 0x00 to 0x0F and 0x40 to 0x4F (R17, R186). -/
abbrev visible (a : Addr) : Prop := a.toNat ≤ 0x0F ∨ (0x40 ≤ a.toNat ∧ a.toNat ≤ 0x4F)

/-! ### Register encodings of a register-level realization (R35); nothing in the model reads them -/

/-- `Idle = 0`, `SendingHigh = 1`, `SendingLow = 2`, `Executing = 3` (R35). -/
def Phase.code : Phase → BitVec 2
  | .idle => 0 | .sendingHigh => 1 | .sendingLow => 2 | .executing => 3

/-- `P_IDLE = 0`, `P_SETUP = 1`, `P_HIGH = 2` (R35). -/
def PulsePhase.code : PulsePhase → BitVec 2
  | .idle => 0 | .setup => 1 | .high => 2

end Machine
end Sys2Proof
end

