-- ==== Sys2Proof/Machine/Ops.lean ====
section
/-! DEFINITION. The named operations on the engine, and its tick, part by part as R150 gathers them. In each
part `s` is s_n, from which everything is judged (R37), and `n` is s_(n+1) as far as it is built.
There is no trap entry and no return from one to model (R205, R214, R215). -/

namespace Sys2Proof.Machine

/-- The reset state, whatever `s` was; `active` is not written (R39, 93 U1). -/
def Engine.resetState (s : Engine) : Engine where
  q := []
  state := .idle
  active := s.active
  run := false
  tArmed := false
  tRem := 0
  pPhase := .idle
  pRem := 0
  D := 0
  RS := false
  EN := false

/-- `arm(d)` (R128). -/
def Engine.arm (n : Engine) (d : Delay) : Engine := { n with tArmed := true, tRem := d }

/-- `drive(rs, nib)`: RS and the four data lines in the same tick (R13, R53, R58 d). -/
def Engine.drive (n : Engine) (rs : Bool) (nib : Nibble) : Engine := { n with RS := rs, D := nib }

/-- EN asserted for PULSE_TICKS (R95, R97). -/
def Engine.raiseEnable (n : Engine) (p : Params) : Engine :=
  { n with EN := true, pPhase := .high, pRem := p.pulseTicks }

/-- `start_pulse()`: through the setup phase, or at once where SETUP_TICKS is 0 (R97). -/
def Engine.startPulse (n : Engine) (p : Params) : Engine :=
  if p.setupTicks = 0 then n.raiseEnable p else { n with pPhase := .setup, pRem := p.setupTicks }

/-- Part 1, the pulse sequencer's step (R98). -/
def Engine.pulseStep (s : Engine) (p : Params) : Engine :=
  match s.pPhase with
  | .idle  => s
  | .setup => if s.pRem ≤ 1 then s.raiseEnable p else { s with pRem := s.pRem - 1 }
  | .high  =>
    if s.pRem ≤ 1 then { s with EN := false, pPhase := .idle, pRem := 0 }
    else { s with pRem := s.pRem - 1 }

/-- Part 2, the one-shot timer's step (R128). -/
def Engine.timerStep (s : Engine) : Engine :=
  if s.tArmed then
    if s.tRem.toNat ≤ 1 then { s with tArmed := false, tRem := 0 } else { s with tRem := s.tRem - 1 }
  else s

/-- `POP`, that is `x[0] <- QueuePop()`: the oldest word leaves the queue and becomes `active`; an empty
queue is unchanged (R113, R131). -/
def Engine.dequeue (n : Engine) : Engine :=
  match n.q with
  | w :: rest => { n with q := rest, active := w }
  | []        => n

/-- The queue after a tick: the head removed by a pop, then the accepted word appended, both judged against the
old queue (R115). -/
def queueNext (q : List Word) (pop : Bool) (push : Option Word) : List Word :=
  (if pop then q.drop 1 else q) ++
    (match push with | some w => if q.length < Config.queueDepth then [w] else [] | none => [])

/-- The form every operation keeps: no more words than slots (R21, R41 g). -/
abbrev queueWf (q : List Word) : Prop := q.length ≤ Config.queueDepth

/-- `advance_op()` (R131). -/
def Engine.advanceOp (n : Engine) (p : Params) : Engine :=
  match n.q with
  | _ :: _ => { n.dequeue with state := .sendingHigh }.arm p.minTicks
  | []     => { n with state := .idle }

/-- Part 3 up to the advance operation: the in-flight word, whose fields are `f`, at its phase (R133 to
R137). An event that the phase does not expect is ignored (R148). -/
def Engine.transmit (s n : Engine) (p : Params) (f : WordFields) : Engine :=
  match s.state with
  | .idle        => n
  | .sendingHigh =>
    if s.fire then (n.drive f.isData f.hi).startPulse p
    else if s.pulseDone then { n with state := .sendingLow }.arm p.minTicks
    else n
  | .sendingLow  =>
    if s.fire then (n.drive f.isData f.lo).startPulse p
    else if s.pulseDone then { n with state := .executing }.arm f.timerLoad
    else n
  | .executing   => if s.fire then { n with state := .idle } else n

/-- Part 4, the direct port and `set_run` (R91, R95, R96, R139). -/
def Engine.directStep (s n : Engine) (p : Params) (inp : In) : Engine :=
  if s.dirReady then
    let m := if inp.dirSet then n.pinWrite inp.dirSig inp.dirBit else n
    if inp.dirPulse then m.raiseEnable p
    else if inp.setRun then { m with run := true }
    else m
  else n

/-- Part 5, the push, judged against the registered length (R111, R115). -/
def Engine.pushStep (s n : Engine) (inp : In) : Engine :=
  if inp.pushValid && s.pushReady then { n with q := n.q ++ [inp.pushWord] } else n

/-- Parts 1 to 3 with the advance operation. -/
def Engine.machineStep (s : Engine) (p : Params) (f : WordFields) (advance : Bool) : Engine :=
  let n := s.transmit (s.pulseStep p).timerStep p f
  if s.wantAdvance advance then n.advanceOp p else n

/-- The tick function (R150), with the fields of the in-flight word as an argument; reset dominates
(R212). -/
def Engine.tickWord (s : Engine) (p : Params) (f : WordFields) (inp : In) : Engine :=
  if inp.rst then s.resetState
  else s.pushStep (s.directStep (s.machineStep p f inp.advance) p inp) inp

/-- `tick(s, in)` (R150): the in-flight word is `active`. -/
def Engine.tick (s : Engine) (p : Params) (inp : In) : Engine := s.tickWord p (fieldsOf s.active) inp

/-- The latch event of a tick: EN falls, with the levels of RS and D after the tick (R15). -/
def latchOf (t : Nat) (s n : Engine) : List Latch := if s.EN && !n.EN then [⟨t, n.RS, n.D⟩] else []

/-- The machine after the engine has gone to `e` in one tick: time and the observation move on. -/
def State.ticked (s : State) (e : Engine) : State :=
  { s with eng := e, now := s.now + 1, events := s.events ++ latchOf (s.now + 1) s.eng e }

/-- One tick with these input levels. -/
def State.clock (s : State) (inp : In) : State := s.ticked (s.eng.tick s.cfg inp)

/-- One tick of the instruction word with these fields, the advance trigger given: in Idle the trigger
starts the word at the head of the queue (R129, R131), in the other phases it changes nothing (R130,
R137) and the word moves on through its phases [8]. -/
def State.wordTick (s : State) (f : WordFields) : State :=
  s.ticked (s.eng.tickWord s.cfg f In.trigger)

/-- The word that an advance trigger of this tick would take from the queue: "it is 'fetched' by being
removed" (R25, R129). -/
def Engine.fetch (s : Engine) : Option Word :=
  if s.run then
    match s.state with
    | .idle        => s.q.head?
    | .sendingHigh => none
    | .sendingLow  => none
    | .executing   => none
  else none

/-- The word in flight (R16, R22). -/
def Engine.inFlight (s : Engine) : Option Word :=
  match s.state with
  | .idle        => none
  | .sendingHigh => some s.active
  | .sendingLow  => some s.active
  | .executing   => some s.active

end Sys2Proof.Machine
end

