-- ==== Sys2Proof/Machine/Program.lean ====
section
/-! DEFINITION. The host's program: when a line is done (R83), the lines that take no tick, the expansions of
the pseudo-instructions (R84, R99, R171, R188 to R190), and a macro's first tick. -/

namespace Sys2Proof.Machine

/-- Do these port levels make a request? The levels that only go with a request are not looked at (R79, R36). -/
def In.requests (inp : In) : Bool :=
  inp.rst || inp.pushValid || inp.advance || inp.setRun || inp.dirSet || inp.dirPulse

/-- Does the line make a request, in this tick or a later one? WAIT, WAITIDLE, a cursor assignment, a direct-port
pattern without a request and port levels without one make none (R83, R79). -/
def Line.requests : Line → Bool
  | .op (.dp p)  => p.getLsbD 5 || p.getLsbD 4
  | .op _        => true
  | .ports inp   => inp.requests
  | .wait _      => false
  | .waitIdle    => false
  | .setCursor _ => false

/-- Is the line done in this tick? PUSH is held until `push_ready`, SETRUN, SETLEVEL and PULSE until
`dir_ready`, the others take one tick (R83); SETLEVEL with PULSE is held like each of them [15], and a
pattern without a request is not held. A macro's own line is done when it has expanded. -/
def lineDone (e : Engine) : HostWord → Bool
  | .dp p       => e.dirReady || (!p.getLsbD 5 && !p.getLsbD 4)
  | .nib _      => true
  | .push _     => e.pushReady
  | .advance    => true
  | .setRun     => e.dirReady
  | .reset      => true
  | .char _     => true
  | .initCall => true

/-- The program after this tick of its head line: the line is dropped when done, else held (R83). -/
def heldProgram (e : Engine) (h : HostWord) (rest : List Line) : List Line :=
  if lineDone e h then rest else .op h :: rest

/-- Take the lines at the head that need no tick: `WAIT 0`, `WAITIDLE` of an engine that is idle with an
empty queue (R83 "0 or more"), and cursor assignments [2] [17]. -/
def settleLines (atRest : Bool) : List Line → Addr → List Line × Addr
  | .wait 0 :: rest, c      => settleLines atRest rest c
  | .waitIdle :: rest, c    => if atRest then settleLines atRest rest c else (.waitIdle :: rest, c)
  | .setCursor a :: rest, _ => settleLines atRest rest a
  | lines, c                => (lines, c)

/-- `idle = 1` and `empty = 1` (R64, R83, R152). -/
def Engine.atRest (e : Engine) : Bool := e.isIdle && e.empty

/-- The state in which the next line that needs a tick stands at the head. -/
def State.settled (s : State) : State :=
  let r := settleLines s.eng.atRest s.prod.program s.prod.cursor
  { s with prod := { program := r.1, cursor := r.2 } }

/-- The state with another program. -/
def State.withProgram (s : State) (lines : List Line) : State :=
  { s with prod := { s.prod with program := lines } }

/-- A macro: its expansion stands before the rest of the program and its first line, a host operation, is
presented in this same tick (R84, R83 "a line starts in the tick after the previous line's last tick"). -/
def State.runMacro (s : State) (first : HostWord) (more : List Line) : State :=
  (s.withProgram (heldProgram s.eng first (more ++ s.prod.program))).clock (portsOf first)

/-- `SETLEVEL sig, b` as a line. -/
def setLevelLine (sig : BitVec 3) (b : Bool) : HostWord := .dp (encodeDirect false true sig b)

/-- `PULSE` as a line. -/
def pulseLine : HostWord := .dp (encodeDirect true false 0 false)

/-- The lines of `sendNibble(n)` after the first, `SETLEVEL 5, 0` (R99). -/
def sendNibbleRest (n : Nibble) : List Line :=
  [.op (setLevelLine 0 (n.getLsbD 0)), .op (setLevelLine 1 (n.getLsbD 1)),
   .op (setLevelLine 2 (n.getLsbD 2)), .op (setLevelLine 3 (n.getLsbD 3)), .op pulseLine]

/-- One tick of `sendNibble(n)`: it expands, and `SETLEVEL 5, 0` is presented (R99). -/
def State.startNibble (s : State) (n : Nibble) : State :=
  s.runMacro (setLevelLine 5 false) (sendNibbleRest n)

/-- The WAIT after a nibble, so that at least `w` ticks pass from the fall of EN (R174). The line starts in the tick
after the PULSE was accepted, and EN falls PULSE_TICKS - 1 ticks later: "a blocking delay placed after
`pulseEnable()` has returned". From fall to next rise it is then `w + 5` ticks whatever PULSE_TICKS is, for w of at least 1 [19]. -/
def waitAfterPulse (p : Params) (w : Nat) : Line := .wait (w + (p.pulseTicks - 1))

/-- The lines of `initialize()` after RESET (R171, R173, R174, R176). -/
def initializeRest (p : Params) : List Line :=
  [.wait p.boot.powerOn,
   .op (.nib (encodeNibble 3)), waitAfterPulse p p.boot.after1,
   .op (.nib (encodeNibble 3)), waitAfterPulse p p.boot.after2,
   .op (.nib (encodeNibble 3)), waitAfterPulse p p.boot.after3,
   .op (.nib (encodeNibble 2)), waitAfterPulse p p.boot.after4,
   .op .setRun,
   .op (.push (functionSetWord p)), .op (.push (displayOffWord p)), .op (.push (clearDisplayWord p)),
   .op (.push (entryModeSetWord p)), .op (.push (displayOnWord p)),
   .op .advance, .waitIdle]

end Sys2Proof.Machine
end

