-- ==== Sys2Proof/Machine/Direct.lean ====
section
/-! DEFINITION. The direct port, formats DP and NIB. A request the engine does not serve is a next state in
which nothing changes because of it (R208). -/

namespace Sys2Proof.Machine
open Host (Outcome)

/-- SETLEVEL sig, b: one tick in which it is requested (R91, R93). -/
def execSetLevel (sig : BitVec 3) (b : Bool) (s : State) : Outcome State Fault Refusal :=
  .next (s.clock (In.direct false true sig b))

/-- PULSE_ENABLE: one tick in which it is requested; the sequencer then ends the pulse (R94, R95, R98). -/
def execPulseEnable (s : State) : Outcome State Fault Refusal :=
  .next (s.clock (In.direct true false 0 false))

/-- SETLEVEL and PULSE_ENABLE in one tick (R96). -/
def execSetLevelPulse (sig : BitVec 3) (b : Bool) (s : State) : Outcome State Fault Refusal :=
  .next (s.clock (In.direct true true sig b))

/-- SEND_NIBBLE n: five SETLEVEL and one PULSE (R99). -/
def execSendNibble (n : Nibble) (s : State) : Outcome State Fault Refusal := .next (s.startNibble n)

/-- SEND_NIBBLE 0x3 (R99, R173). -/
def execSendNibble3 (s : State) : Outcome State Fault Refusal := .next (s.startNibble 3)

/-- SEND_NIBBLE 0x2 (R99, R173). -/
def execSendNibble2 (s : State) : Outcome State Fault Refusal := .next (s.startNibble 2)

end Sys2Proof.Machine
end

