-- ==== Sys2Proof/Machine/Macros.lean ====
section
/-! DEFINITION. The host-side pseudo-instructions, format MACRO: the three branches of `writeCharacter` (R188,
R189, R190, R192) and `initialize` (R171). Each expands into host program lines and presents the
first of them in its tick [2].
A `writeCharacter` BEFORE THE BOOTSTRAP IS COMPLETE, which R177, R185 and R247 forbid the host, runs its branch as any
other call does: the words are pushed, the cursor moves, the trigger is given (and lost in direct mode, R130).
DESIGN CHOICE [27]: the source gives no consequence (91 N31), and the result at the host's level is unspecified
(93 U18). -/

namespace Sys2Proof.Machine
open Host (Outcome)

/-- writeCharacter('~'): one clear-display, cursor to 0x00, ADVANCE (R188); before the bootstrap is
complete the same [27]. -/
def execWriteCharTilde (s : State) : Outcome State Fault Refusal :=
  .next (s.runMacro (.push (clearDisplayWord s.cfg)) [.setCursor 0x00, .op .advance])

/-- writeCharacter(0x08): if the cursor is above 0 it steps back and three words are queued; ADVANCE in either
case (R189, R191); before the bootstrap is complete the same [27]. -/
def execWriteCharBackspace (s : State) : Outcome State Fault Refusal :=
  if s.prod.cursor = 0 then .next (s.runMacro .advance [])
  else
    let a := cursorPrev s.prod.cursor
    .next ({ s with prod := { s.prod with cursor := a } }.runMacro (.push (cursorSetWord s.cfg a))
      [.op (.push (dataWriteWord s.cfg 0x20)), .op (.push (cursorSetWord s.cfg a)), .op .advance])

/-- writeCharacter(c) of any other byte: cursor-set, data write, cursor on, ADVANCE (R190, R193); before the
bootstrap is complete the same [27]. -/
def execWriteCharOther (c : Byte) (s : State) : Outcome State Fault Refusal :=
  .next (s.runMacro (.push (cursorSetWord s.cfg s.prod.cursor))
    [.op (.push (dataWriteWord s.cfg c)), .setCursor (cursorNext s.prod.cursor), .op .advance])

/-- initialize(): RESET, the waits and nibbles of the bootstrap, SETRUN, five words, ADVANCE, WAITIDLE (R171).
A SECOND CALL does the same again: its RESET reopens the direct port, which else refuses after SETRUN (R178), and the
whole sequence is sent once more. DESIGN CHOICE [25]: the source gives no consequence of a second call
(91 N31), and the result at the host's level is unspecified (93 U18). -/
def execInitialize (s : State) : Outcome State Fault Refusal :=
  .next (s.runMacro .reset (initializeRest s.cfg))

end Sys2Proof.Machine
end

