-- ==== Sys2Proof/Machine/Ports.lean ====
section
/-! DEFINITION. The one-bit requests, format PORT, each one tick in which it is presented, and POP, which is
internal to the advance operation. -/

namespace Sys2Proof.Machine
open Host (Outcome)

/-- PUSH w: one tick in which w is presented; not accepted while the queue is full (R111, R112). -/
def execPush (w : Word) (s : State) : Outcome State Fault Refusal := .next (s.clock (In.pushOf w))

/-- POP: the oldest word leaves the queue for `active`; of an empty queue nothing changes (R113). It is part
of a tick and takes none itself [7]. -/
def execPop (s : State) : Outcome State Fault Refusal := .next { s with eng := s.eng.dequeue }

/-- ADVANCE: one tick of the external trigger; lost outside Idle and in direct mode (R129, R130). -/
def execAdvance (s : State) : Outcome State Fault Refusal := .next (s.clock In.trigger)

/-- SET_RUN (R139). -/
def execSetRun (s : State) : Outcome State Fault Refusal := .next (s.clock In.goRun)

/-- RESET: one tick of `rst = 1` (R39, R230). -/
def execReset (s : State) : Outcome State Fault Refusal := .next (s.clock In.hardReset)

end Sys2Proof.Machine
end

