-- ==== Sys2Proof/Machine/Words.lean ====
section
/-! DEFINITION. The instruction words, format IW. To the engine each is a CMD or a DATA_WRITE (R75), so each
meaning is one tick of the word with its own fields: in Idle the advance operation takes it from the
queue and arms the minimal timer; in SendingHigh and SendingLow its nibbles are driven with RS and EN
is pulsed; then the timer counts its delay; at the expiry the machine goes to Idle and advances (R142,
R143). How far it has come is in State (`state`, timer, pulse phase) [8]. -/

namespace Sys2Proof.Machine
open Host (Outcome)

/-- CMD opcode, delay (R142). -/
def execCmd (opcode : Byte) (delay : Delay) (s : State) : Outcome State Fault Refusal :=
  .next (s.wordTick ⟨false, delay, opcode⟩)

/-- DATA_WRITE byte, delay (R143). -/
def execDataWrite (opcode : Byte) (delay : Delay) (s : State) : Outcome State Fault Refusal :=
  .next (s.wordTick ⟨true, delay, opcode⟩)

/-- FUNCTION_SET (R156). -/
def execFunctionSet (delay : Delay) (s : State) : Outcome State Fault Refusal :=
  .next (s.wordTick ⟨false, delay, 0x28⟩)

/-- DISPLAY_OFF (R157). -/
def execDisplayOff (delay : Delay) (s : State) : Outcome State Fault Refusal :=
  .next (s.wordTick ⟨false, delay, 0x08⟩)

/-- CLEAR_DISPLAY (R158). -/
def execClearDisplay (delay : Delay) (s : State) : Outcome State Fault Refusal :=
  .next (s.wordTick ⟨false, delay, 0x01⟩)

/-- ENTRY_MODE_SET (R159). -/
def execEntryModeSet (delay : Delay) (s : State) : Outcome State Fault Refusal :=
  .next (s.wordTick ⟨false, delay, 0x06⟩)

/-- DISPLAY_ON, opcode 0x0C as the table has it (R160). -/
def execDisplayOn (delay : Delay) (s : State) : Outcome State Fault Refusal :=
  .next (s.wordTick ⟨false, delay, 0x0C⟩)

/-- CURSOR_SET a, opcode `0x80 | a` (R161). -/
def execCursorSet (a : Addr) (delay : Delay) (s : State) : Outcome State Fault Refusal :=
  .next (s.wordTick ⟨false, delay, 1#1 ++ a⟩)

/-- DATA_WRITE c as the character writer emits it (R162). -/
def execDataWriteWriter (c : Byte) (s : State) : Outcome State Fault Refusal :=
  .next (s.wordTick ⟨true, writerDelay, c⟩)

end Sys2Proof.Machine
end

