-- ==== Sys2Proof/Machine/Dispatch.lean ====
section
/-! DEFINITION. One arm for each instruction, one direct call of its meaning. -/

namespace Sys2Proof.Machine

def exec (i : Instr) (s : State) : Host.Outcome State Fault Refusal :=
  match i with
  | .cmd o d => Sys2Proof.Machine.execCmd o d s
  | .dataWrite o d => Sys2Proof.Machine.execDataWrite o d s
  | .functionSet d => Sys2Proof.Machine.execFunctionSet d s
  | .displayOff d => Sys2Proof.Machine.execDisplayOff d s
  | .clearDisplay d => Sys2Proof.Machine.execClearDisplay d s
  | .entryModeSet d => Sys2Proof.Machine.execEntryModeSet d s
  | .displayOn d => Sys2Proof.Machine.execDisplayOn d s
  | .cursorSet a d => Sys2Proof.Machine.execCursorSet a d s
  | .dataWriteWriter c => Sys2Proof.Machine.execDataWriteWriter c s
  | .setLevel g b => Sys2Proof.Machine.execSetLevel g b s
  | .pulseEnable => Sys2Proof.Machine.execPulseEnable s
  | .setLevelPulse g b => Sys2Proof.Machine.execSetLevelPulse g b s
  | .sendNibble n => Sys2Proof.Machine.execSendNibble n s
  | .sendNibble3 => Sys2Proof.Machine.execSendNibble3 s
  | .sendNibble2 => Sys2Proof.Machine.execSendNibble2 s
  | .push w => Sys2Proof.Machine.execPush w s
  | .pop => Sys2Proof.Machine.execPop s
  | .advance => Sys2Proof.Machine.execAdvance s
  | .setRun => Sys2Proof.Machine.execSetRun s
  | .reset => Sys2Proof.Machine.execReset s
  | .writeCharTilde => Sys2Proof.Machine.execWriteCharTilde s
  | .writeCharBackspace => Sys2Proof.Machine.execWriteCharBackspace s
  | .writeCharOther c => Sys2Proof.Machine.execWriteCharOther c s
  | .initCall => Sys2Proof.Machine.execInitialize s

end Sys2Proof.Machine
end

