-- ==== Sys2Proof/Machine/Step.lean ====
section
/-! DEFINITION. One step is one tick (R12, R149): the host's line of this tick is fetched and decoded, and its
instruction runs; where the line is the trigger that makes the engine fetch, the fetched word runs
(R25); where the host presents nothing, the word in flight runs; else the tick only passes. -/

namespace Sys2Proof.Machine
open Host (Outcome)

/-- The instruction that runs: a trigger that makes the engine fetch a word runs that word. -/
def State.issued (s : State) (i : Instr) : Instr :=
  if i = .advance then (match s.eng.fetch with | some w => decodeWord w | none => i) else i

/-- A tick in which the host presents no request. -/
def State.quietStep (s : State) : Outcome State Fault Refusal :=
  match s.eng.inFlight with
  | some w => exec (decodeWord w) s
  | none   => .next (s.clock In.quiet)

/-- A tick at a state whose program begins with a line that needs a tick, or is empty. -/
def State.lineStep (s : State) : Outcome State Fault Refusal :=
  match s.prod.program with
  | .op h :: rest =>
    match decodeHost h with
    | .ok i               => exec (s.issued i) (s.withProgram (heldProgram s.eng h rest))
    | .error .noRequest   => (s.withProgram rest).quietStep
    | .error r            => .refused (.undecodable r)
  | .ports inp :: rest    => .next ((s.withProgram rest).clock inp)
  | .wait (n + 1) :: rest => (s.withProgram (.wait n :: rest)).quietStep
  | _                     => s.quietStep

/-- One step, one tick. -/
def step (s : State) : Outcome State Fault Refusal := s.settled.lineStep

/-- The state whose next step fetches and runs the instruction of these bits [6] [11]. A word of the FIFO is
put at the head of the queue of an idle engine in run mode with the advance trigger as the host's next
line, so that the next step takes it from the queue; a host operation is put at the head of the host's
program. Bits that stand for no encoded form leave the state as it is. -/
def State.withFetchWord (s : State) (nbits w : Nat) : State :=
  match tableEncoded nbits w with
  | some (.iw word) =>
    { s with
      eng := { s.eng with
        q := word :: s.eng.q.take (Config.queueDepth - 1)
        state := .idle, run := true
        tArmed := false, tRem := 0, pPhase := .idle, pRem := 0 }
      prod := { s.prod with program := .op .advance :: s.prod.program } }
  | some (.host h)  => { s with prod := { s.prod with program := .op h :: s.prod.program } }
  | none            => s

end Sys2Proof.Machine
end

