-- ==== Sys2Proof/Machine/Ring.lean ====
section
/-! DEFINITION. The ring-buffer realization of the instruction FIFO (R40): ten slots, two pointers that wrap from
9 to 0 by compare, a count. `RingBuffer.queue` is the abstract sequence; nothing outside can tell the two
apart. -/

namespace Sys2Proof.Machine

/-- `mem[0..9]`, `wr_ptr`, `rd_ptr`, `cnt` (R40). -/
structure RingBuffer where
  mem : Vector Word 10
  wr  : Fin 10
  rd  : Fin 10
  cnt : Nat
deriving DecidableEq, Repr

/-- A pointer's next value: the wrap is a compare (R40). -/
def RingBuffer.bump (k : Fin 10) : Fin 10 := if k = 9 then 0 else k + 1

/-- `q = [mem[(rd_ptr + i) mod 10] for i in 0 .. cnt-1]` (R40). -/
def RingBuffer.queue (r : RingBuffer) : List Word :=
  (List.range r.cnt).map fun i => r.mem[(r.rd.val + i) % 10]'(Nat.mod_lt _ (by decide))

/-- The count is within the depth and the write pointer stands `cnt` slots after the read pointer. -/
abbrev RingBuffer.wf (r : RingBuffer) : Prop := r.cnt ≤ 10 ∧ r.wr.val = (r.rd.val + r.cnt) % 10

/-- At reset pointers and count are 0 and `mem` is unspecified: any contents (R40). -/
def RingBuffer.resetTo (mem : Vector Word 10) : RingBuffer := ⟨mem, 0, 0, 0⟩

/-- The pop's result, `mem[rd_ptr]` (R40); none of an empty ring (R113). -/
def RingBuffer.head (r : RingBuffer) : Option Word := if r.cnt = 0 then none else some r.mem[r.rd]

/-- One tick: a pop and a push, each judged against the registered count (R40, R115). -/
def RingBuffer.tick (r : RingBuffer) (pop : Bool) (push : Option Word) : RingBuffer :=
  let popped := pop && decide (0 < r.cnt)
  let rd := if popped then RingBuffer.bump r.rd else r.rd
  let cnt := if popped then r.cnt - 1 else r.cnt
  match push with
  | some w => if r.cnt < 10 then ⟨r.mem.set r.wr w, RingBuffer.bump r.wr, rd, cnt + 1⟩ else ⟨r.mem, r.wr, rd, cnt⟩
  | none   => ⟨r.mem, r.wr, rd, cnt⟩

end Sys2Proof.Machine
end

