-- ==== Sys2Proof/Safety.lean ====
section
/-! DEFINITION. What counts as a safe run, in the terms claims use: the invariants (R41), the end of a run (R152),
the host's discipline (R240 to R253), and what a run of the engine over a list of inputs does. -/

namespace Sys2Proof.Machine

/-! ### Invariants of the engine -/

/-- R41 (a) to (e) and (g); an unarmed timer reads 0 (R26) and an idle sequencer 0 (R27); and while a nibble is to
be sent, either the timer or the sequencer is at work, which R133 to R136 rest on. -/
abbrev Engine.Inv (e : Engine) : Prop :=
  queueWf e.q
  ∧ (e.run = false → e.state = .idle ∧ e.tArmed = false)
  ∧ (e.tArmed = true → e.pPhase = .idle ∧ e.state ≠ .idle)
  ∧ (e.pPhase ≠ .idle → e.run = true →
      (e.state = .sendingHigh ∨ e.state = .sendingLow) ∧ e.tArmed = false)
  ∧ (e.state = .executing → e.tArmed = true)
  ∧ (e.state = .idle → e.tArmed = false ∧ (e.run = true → e.pPhase = .idle))
  ∧ (e.tArmed = false → e.tRem = 0)
  ∧ (e.pPhase = .idle → e.pRem = 0)
  ∧ (e.state = .sendingHigh ∨ e.state = .sendingLow → e.tArmed = true ∨ e.pPhase ≠ .idle)

/-- R41 (f): EN is asserted exactly in the sequencer's high phase. -/
abbrev Engine.EnTracks (e : Engine) : Prop := e.EN = true ↔ e.pPhase = .high

/-- The tracked cursor stands in the visible range, and so do the values it is about to take (R186). -/
abbrev Producer.CursorVisible (p : Producer) : Prop :=
  visible p.cursor ∧ ∀ a, Line.setCursor a ∈ p.program → visible a

/-- The reset state, item by item, with its outputs (R39); `active` is unspecified. -/
abbrev Engine.IsReset (e : Engine) : Prop :=
  e.q = [] ∧ e.state = .idle ∧ e.run = false ∧ e.tArmed = false ∧ e.tRem = 0
  ∧ e.pPhase = .idle ∧ e.pRem = 0 ∧ e.D = 0 ∧ e.RS = false ∧ e.EN = false
  ∧ e.pushReady = true ∧ e.empty = true ∧ e.isIdle = true ∧ e.dirReady = true

/-! ### The host's discipline -/

/-- A tick's requests that write EN through `SETLEVEL 4` (R93). -/
def In.touchesEn (inp : In) : Bool := inp.dirSet && inp.dirSig = 4

/-- A line that writes EN through `SETLEVEL 4` (R93, R246). -/
def Line.touchesEn : Line → Bool
  | .op h        => (portsOf h).touchesEn
  | .ports inp   => inp.touchesEn
  | .wait _      => false
  | .waitIdle    => false
  | .setCursor _ => false

/-- "The host must not use SETLEVEL on EN" (R246). -/
abbrev Producer.SparesEn (p : Producer) : Prop := ∀ l ∈ p.program, l.touchesEn = false

/-- R243: nothing can free a slot: the queue is full and the machine idle, or in direct mode. A push line is
then held until another producer's trigger or, in direct mode, SETRUN and a trigger. -/
abbrev Engine.stuckFull (e : Engine) : Prop :=
  e.pushReady = false ∧ (e.state = .idle ∨ e.run = false)

/-- The bootstrap is complete: run mode, idle and empty (R177, R234); before it no `writeCharacter` (R247). -/
abbrev Engine.booted (e : Engine) : Prop := e.run = true ∧ e.isIdle = true ∧ e.empty = true

/-! ### Runs -/

/-- The end of a run (R152): Idle, empty, no pulse, and no line left that makes a request; waits may be left. -/
abbrev State.over (s : State) : Prop :=
  s.eng.state = .idle ∧ s.eng.q = [] ∧ s.eng.pPhase = .idle
  ∧ ∀ l ∈ s.prod.program, l.requests = false

/-- The engine after the inputs of successive ticks (R12: `s_(n+1) = tick(s_n, in_n)`). -/
def Engine.after (p : Params) : Engine → List In → Engine
  | e, []          => e
  | e, inp :: rest => Engine.after p (e.tick p inp) rest

/-- The latch events of those ticks, where `t` is the tick index of the start (R15). -/
def Engine.latches (p : Params) : Nat → Engine → List In → List Latch
  | _, _, []          => []
  | t, e, inp :: rest =>
    latchOf (t + 1) e (e.tick p inp) ++ Engine.latches p (t + 1) (e.tick p inp) rest

/-- The word that this tick takes from the queue (R113, R131). -/
def Engine.poppedNow (e : Engine) (inp : In) : List Word :=
  if !inp.rst && e.wantAdvance inp.advance then e.q.take 1 else []

/-- The words that successive ticks take, in order. -/
def Engine.popped (p : Params) : Engine → List In → List Word
  | _, []          => []
  | e, inp :: rest => e.poppedNow inp ++ Engine.popped p (e.tick p inp) rest

/-- The word that this tick accepts (R111). -/
def Engine.acceptedNow (e : Engine) (inp : In) : List Word :=
  if !inp.rst && inp.pushValid && e.pushReady then [inp.pushWord] else []

/-- The words that successive ticks accept, in order. -/
def Engine.accepted (p : Params) : Engine → List In → List Word
  | _, []          => []
  | e, inp :: rest => e.acceptedNow inp ++ Engine.accepted p (e.tick p inp) rest

/-- No reset among the inputs. -/
abbrev noReset (ins : List In) : Prop := ∀ inp ∈ ins, inp.rst = false

/-- What the display sees of an event: the levels, not the tick. -/
def Latch.levels (l : Latch) : Bool × Nibble := (l.rs, l.nib)

/-- The two latch events of a word, high nibble then low, with `RS = is_data` (R52, R144). -/
def wordLevels (w : Word) : List (Bool × Nibble) :=
  [((fieldsOf w).isData, (fieldsOf w).hi), ((fieldsOf w).isData, (fieldsOf w).lo)]

/-- The events that the word in flight still owes. A nibble whose pulse is in progress is owed with the levels that
are on the lines. -/
def Engine.owed (e : Engine) : List (Bool × Nibble) :=
  let f := fieldsOf e.active
  match e.state with
  | .idle        => []
  | .sendingHigh =>
    (if e.pPhase = .idle then [(f.isData, f.hi)] else [(e.RS, e.D)]) ++ [(f.isData, f.lo)]
  | .sendingLow  => if e.pPhase = .idle then [(f.isData, f.lo)] else [(e.RS, e.D)]
  | .executing   => []

/-- Ticks from the dequeue of a word to its advance operation: `2 * (MIN + SETUP + PULSE) + d` (R141, R147). -/
def wordTicks (p : Params) (w : Word) : Nat :=
  2 * (p.minTicks.toNat + p.setupTicks + p.pulseTicks) + (fieldsOf w).timerLoad.toNat

/-- The latch events of words executed back to back at the reference parameters, the first of them in flight from
tick `t` on: three and six ticks after its dequeue (R140, R141). -/
def scheduled : Nat → List Word → List Latch
  | _, []        => []
  | t, w :: rest =>
    let f := fieldsOf w
    ⟨t + 3, f.isData, f.hi⟩ :: ⟨t + 6, f.isData, f.lo⟩
      :: scheduled (t + 6 + f.timerLoad.toNat) rest

/-- The ticks they take (R141). -/
def scheduledTicks : List Word → Nat
  | []        => 0
  | w :: rest => 6 + (fieldsOf w).timerLoad.toNat + scheduledTicks rest

end Sys2Proof.Machine
end

