-- ==== Sys2Proof/Certificates/Slice0/Obligations.lean ====
section
/-! DEFINITION. The statements for the provers. -/

open Sys2Proof Sys2Proof.Machine

/-! ### Reset -/

/-- R39: with `rst = 1` the next state is the reset state whatever the state and the other inputs are; the
cursor starts at 0x00; if EN was 1 its fall is a latch event. `active` is unspecified. -/
def Obligations.ResetGivesTheResetState : Prop :=
  (∀ s : State, ∃ t, exec .reset s = .next t ∧ t.eng.IsReset
    ∧ t.events = s.events ++ (if s.eng.EN then [⟨s.now + 1, false, 0⟩] else []))
  ∧ (∀ (e : Engine) (p : Params) (inp : In), inp.rst = true → (e.tick p inp).IsReset)
  ∧ State.reset.eng.IsReset ∧ State.reset.prod.cursor = 0x00

/-- RESET is the engine's alone: the host side and the parameters stay. That RESET does not touch the host's cursor is
the model's reading (R222, R234; log entry 17). -/
def Obligations.ResetLeavesTheHostSide : Prop :=
  ∀ s : State, ∃ t, exec .reset s = .next t ∧ t.prod = s.prod ∧ t.cfg = s.cfg ∧ t.now = s.now + 1

/-- The invariants hold at reset (R41, R186, R246, R10). -/
def Obligations.ResetMeetsEveryInvariant : Prop :=
  State.reset.eng.Inv ∧ State.reset.eng.EnTracks ∧ State.reset.prod.CursorVisible
  ∧ State.reset.prod.SparesEn ∧ State.reset.cfg.wf

/-! ### Invariants that every step keeps -/

/-- R41 (a) to (e), (g): every step keeps the engine's invariant. -/
def Obligations.StepKeepsTheEngineInvariant : Prop :=
  ∀ s t : State, s.eng.Inv → step s = .next t → t.eng.Inv

/-- R41 (f), R246: under a host that spares EN, EN is asserted exactly in the high phase, and the program
that is left still spares EN. -/
def Obligations.StepKeepsEnableTrackingThePulse : Prop :=
  ∀ s t : State, s.eng.Inv → s.prod.SparesEn → s.eng.EnTracks → step s = .next t →
    t.eng.EnTracks ∧ t.prod.SparesEn

/-- R186: the cursor stays in the visible range. That RESET leaves it is log entry 17, that a writeCharacter before the
bootstrap is complete moves it as any other is log entry 27. -/
def Obligations.StepKeepsTheCursorVisible : Prop :=
  ∀ s t : State, s.prod.CursorVisible → step s = .next t → t.prod.CursorVisible

/-! ### Steps -/

/-- R12, R150: a step is one tick of the engine under some input levels; time moves on by one, the parameters
stay (R34), and what the display has seen grows by that tick's latch event. That the inputs come from a program
in State is the model's choice, log entry 1. -/
def Obligations.StepIsOneTick : Prop :=
  ∀ s t : State, step s = .next t →
    ∃ inp : In, t.eng = s.eng.tick s.cfg inp ∧ t.now = s.now + 1 ∧ t.cfg = s.cfg
      ∧ t.events = s.events ++ latchOf (s.now + 1) s.eng t.eng

/-- A step runs the decoded instruction: the host's line; the word that a trigger fetches (R25); the word in
flight where the host presents nothing. A line with port levels is a tick with them. A tick with nothing presented and
nothing in flight only passes, and so does a direct-port pattern without a request (R79). The program in State and
the lines without a tick are the model's, log entries 1 and 2; that a fetching trigger runs exec of the fetched
word, and a tick with nothing presented exec of the word in flight, is the model's choice, log entry 8. -/
def Obligations.StepRunsTheDecodedInstruction : Prop :=
  (∀ (s : State) h rest i, s.settled.prod.program = .op h :: rest → decodeHost h = .ok i →
      (i ≠ .advance ∨ s.eng.fetch = none) →
      step s = exec i (s.settled.withProgram (heldProgram s.eng h rest)))
  ∧ (∀ (s : State) rest w, s.settled.prod.program = .op .advance :: rest → s.eng.fetch = some w →
      step s = exec (decodeWord w) (s.settled.withProgram rest))
  ∧ (∀ (s : State) w, s.settled.prod.program = [] → s.eng.inFlight = some w →
      step s = exec (decodeWord w) s.settled)
  ∧ (∀ (s : State) rest w, s.settled.prod.program = .waitIdle :: rest → s.eng.inFlight = some w →
      step s = exec (decodeWord w) s.settled)
  ∧ (∀ (s : State) n rest w, s.settled.prod.program = .wait (n + 1) :: rest → s.eng.inFlight = some w →
      step s = exec (decodeWord w) (s.settled.withProgram (.wait n :: rest)))
  ∧ (∀ s : State, s.settled.prod.program = [] → s.eng.inFlight = none →
      step s = .next (s.settled.clock In.quiet))
  ∧ (∀ (s : State) rest, s.settled.prod.program = .waitIdle :: rest → s.eng.inFlight = none →
      step s = .next (s.settled.clock In.quiet))
  ∧ (∀ (s : State) n rest, s.settled.prod.program = .wait (n + 1) :: rest → s.eng.inFlight = none →
      step s = .next ((s.settled.withProgram (.wait n :: rest)).clock In.quiet))
  ∧ (∀ (s : State) v rest w, s.settled.prod.program = .op (.dp v) :: rest →
      decodeHost (.dp v) = .error .noRequest → s.eng.inFlight = some w →
      step s = exec (decodeWord w) (s.settled.withProgram rest))
  ∧ (∀ (s : State) v rest, s.settled.prod.program = .op (.dp v) :: rest →
      decodeHost (.dp v) = .error .noRequest → s.eng.inFlight = none →
      step s = .next ((s.settled.withProgram rest).clock In.quiet))
  ∧ (∀ (s : State) inp rest, s.settled.prod.program = .ports inp :: rest →
      step s = .next ((s.settled.withProgram rest).clock inp))

/-- R205, R208: no instruction faults and none is turned away: each answers a next state in every state. -/
def Obligations.EveryInstructionAnswersNext : Prop :=
  ∀ (i : Instr) (s : State), ∃ t, exec i s = .next t ∧ t.cfg = s.cfg

/-- R205, R227: a step never faults; it is refused exactly at a host line that is no instruction, a nibble pattern with
rs = 1 (the model's choice, log entry 12), and answers a next state at every other. -/
def Obligations.StepStopsOnlyAtAMalformedNibble : Prop :=
  ∀ s : State, match s.settled.prod.program with
    | .op (.nib v) :: _ =>
      if v.getLsbD 4 = true then step s = .refused (.undecodable .nibSelectsData) else ∃ t, step s = .next t
    | _ => ∃ t, step s = .next t

/-- R152: an engine whose run is over stays as it is for ever, and the run stays over; what waits the host has left
only pass. -/
def Obligations.FinishedRunStaysFinished : Prop :=
  ∀ (s : State) (k : Nat), s.eng.Inv → s.over →
    ∃ t, Host.Core.run core k s = .next t ∧ t.eng = s.eng ∧ t.events = s.events ∧ t.cfg = s.cfg
      ∧ t.now = s.now + k ∧ t.over

/-! ### The instruction words

Nine constructors, those to which `wordOf` gives fields: cmd, dataWrite, functionSet, displayOff, clearDisplay,
entryModeSet, displayOn, cursorSet, dataWriteWriter. That exec of a word is one tick of it with the trigger
given is the model's choice, log entry 8; each statement says what that tick does by the rule it names. -/

/-- R142, R143, R131: in Idle in run mode the word at the head of the queue is taken: `active` holds it and the
minimal timer is armed. Nothing else changes. -/
def Obligations.WordIsTakenFromTheQueue : Prop :=
  ∀ (i : Instr) (w : Word) (rest : List Word) (s : State),
    encode i = some (.iw w) → s.eng.Inv → s.eng.state = .idle → s.eng.run = true →
    s.eng.q = w :: rest →
    exec i s = .next { s with
      eng := { s.eng with q := rest, active := w, state := .sendingHigh, tArmed := true,
                          tRem := s.cfg.minTicks }
      now := s.now + 1 }

/-- R133: on the expiry in SendingHigh, RS carries `is_data`, the lines the high nibble, and the pulse starts,
through its setup phase or at once (R97). Nothing else changes. The state stays SendingHigh until the pulse is
over. -/
def Obligations.WordDrivesItsHighNibble : Prop :=
  (∀ (i : Instr) (f : WordFields) (s : State), encode i = some (.iw s.eng.active) → wordOf i = some f →
    s.eng.Inv →
    s.eng.state = .sendingHigh → s.eng.fire = true →
    exec i s = .next { s with
      eng := if s.cfg.setupTicks = 0
        then { s.eng with tArmed := false, tRem := 0, RS := f.isData, D := f.opcode.extractLsb' 4 4,
                          EN := true, pPhase := .high, pRem := s.cfg.pulseTicks }
        else { s.eng with tArmed := false, tRem := 0, RS := f.isData, D := f.opcode.extractLsb' 4 4,
                          pPhase := .setup, pRem := s.cfg.setupTicks }
      now := s.now + 1 })
  ∧ (∀ (p : Params) (e : Engine) (inp : In), inp.rst = false → e.Inv → e.state = .sendingHigh →
      e.pulseDone = false → (e.tick p inp).state = .sendingHigh)

/-- R134: when the pulse of the high nibble is over, EN falls, the machine goes to SendingLow and arms the minimal
timer; the fall is a latch event with the levels on the lines (R15). -/
def Obligations.WordEndsItsHighPulse : Prop :=
  ∀ (i : Instr) (f : WordFields) (s : State), wordOf i = some f → s.eng.Inv → s.eng.EnTracks →
    s.eng.state = .sendingHigh → s.eng.pulseDone = true →
    exec i s = .next { s with
      eng := { s.eng with EN := false, pPhase := .idle, pRem := 0, state := .sendingLow,
                          tArmed := true, tRem := s.cfg.minTicks }
      now := s.now + 1
      events := s.events ++ [⟨s.now + 1, s.eng.RS, s.eng.D⟩] }

/-- R135: on the expiry in SendingLow, the low nibble is driven with RS at `is_data` and the pulse starts. -/
def Obligations.WordDrivesItsLowNibble : Prop :=
  ∀ (i : Instr) (f : WordFields) (s : State), encode i = some (.iw s.eng.active) → wordOf i = some f →
    s.eng.Inv →
    s.eng.state = .sendingLow → s.eng.fire = true →
    exec i s = .next { s with
      eng := if s.cfg.setupTicks = 0
        then { s.eng with tArmed := false, tRem := 0, RS := f.isData, D := f.opcode.extractLsb' 0 4,
                          EN := true, pPhase := .high, pRem := s.cfg.pulseTicks }
        else { s.eng with tArmed := false, tRem := 0, RS := f.isData, D := f.opcode.extractLsb' 0 4,
                          pPhase := .setup, pRem := s.cfg.setupTicks }
      now := s.now + 1 }

/-- R136: when the pulse of the low nibble is over, the machine goes to Executing and arms
`max(exec_delay, 1)` (R128). -/
def Obligations.WordStartsItsExecutionDelay : Prop :=
  ∀ (i : Instr) (f : WordFields) (s : State), encode i = some (.iw s.eng.active) → wordOf i = some f →
    s.eng.Inv → s.eng.EnTracks →
    s.eng.state = .sendingLow → s.eng.pulseDone = true →
    exec i s = .next { s with
      eng := { s.eng with EN := false, pPhase := .idle, pRem := 0, state := .executing,
                          tArmed := true, tRem := if f.delay = 0 then 1 else f.delay }
      now := s.now + 1
      events := s.events ++ [⟨s.now + 1, s.eng.RS, s.eng.D⟩] }

/-- R137: on the expiry in Executing the machine goes to Idle and advances in the same step: to SendingHigh with
the next word, or to Idle if the queue is empty; an external trigger in that tick changes nothing. -/
def Obligations.WordEndsAndAdvances : Prop :=
  (∀ (i : Instr) (f : WordFields) (s : State), wordOf i = some f → s.eng.Inv →
    s.eng.state = .executing → s.eng.fire = true →
    exec i s = .next { s with
      eng := match s.eng.q with
        | w :: rest => { s.eng with q := rest, active := w, state := .sendingHigh, tArmed := true,
                                    tRem := s.cfg.minTicks }
        | []        => { s.eng with state := .idle, tArmed := false, tRem := 0 }
      now := s.now + 1 })
  ∧ (∀ (e : Engine) (p : Params) (inp : In), e.state = .executing → e.fire = true →
    e.tick p { inp with advance := true } = e.tick p { inp with advance := false })

/-- R98, R128, R138: while neither the timer nor the pulse expires, only the counters move; the setup phase ends by
raising EN. -/
def Obligations.WordCountsBetweenEvents : Prop :=
  ∀ (i : Instr) (f : WordFields) (s : State), wordOf i = some f → s.eng.Inv → s.eng.state ≠ .idle →
    (s.eng.tArmed = true → s.eng.fire = false →
      exec i s = .next { s with eng := { s.eng with tRem := s.eng.tRem - 1 }, now := s.now + 1 })
    ∧ (s.eng.pPhase = .setup → 1 < s.eng.pRem →
      exec i s = .next { s with eng := { s.eng with pRem := s.eng.pRem - 1 }, now := s.now + 1 })
    ∧ (s.eng.pPhase = .setup → s.eng.pRem ≤ 1 →
      exec i s = .next { s with
        eng := { s.eng with EN := true, pPhase := .high, pRem := s.cfg.pulseTicks }
        now := s.now + 1 })
    ∧ (s.eng.pPhase = .high → 1 < s.eng.pRem →
      exec i s = .next { s with eng := { s.eng with pRem := s.eng.pRem - 1 }, now := s.now + 1 })

/-- The word in flight, decoded, runs as the engine's tick does (R150); log entry 8. -/
def Obligations.WordInFlightIsTheTick : Prop :=
  ∀ (s : State) (w : Word), s.eng.inFlight = some w →
    exec (decodeWord w) s = .next (s.clock In.quiet)

/-! ### The direct port -/

/-- R91, R56: an accepted SETLEVEL writes its latch and nothing else; signals 6 and 7 write nothing; with the direct
port closed the tick is as without the request. -/
def Obligations.SetLevelWritesItsLatch : Prop :=
  (∀ (g : BitVec 3) (b : Bool) (s : State), s.eng.dirReady = false →
    exec (.setLevel g b) s = .next (s.clock In.quiet))
  ∧ ∀ (g : BitVec 3) (b : Bool) (s : State), s.eng.Inv → s.eng.dirReady = true →
    ∃ t, exec (.setLevel g b) s = .next t
      ∧ (g.toNat ≤ 3 → t.eng = { s.eng with D := t.eng.D }
          ∧ ∀ k, k < 4 → t.eng.D.getLsbD k = if k = g.toNat then b else s.eng.D.getLsbD k)
      ∧ (g = 4 → t.eng = { s.eng with EN := b })
      ∧ (g = 5 → t.eng = { s.eng with RS := b })
      ∧ (6 ≤ g.toNat → t.eng = s.eng)
      ∧ t.prod = s.prod ∧ t.cfg = s.cfg ∧ t.now = s.now + 1
      ∧ t.events = s.events
          ++ (if g = 4 ∧ b = false ∧ s.eng.EN = true then [⟨s.now + 1, s.eng.RS, s.eng.D⟩] else [])

/-- R94, R95, R102: an accepted PULSE_ENABLE asserts EN; whatever the inputs are, short of reset, EN stays asserted
for PULSE_TICKS ticks, then falls and the direct port is ready again. With the port closed it is refused. -/
def Obligations.PulseEnableHoldsAndReleases : Prop :=
  (∀ s : State, s.eng.dirReady = false → exec .pulseEnable s = .next (s.clock In.quiet))
  ∧ (∀ s : State, s.eng.Inv → s.eng.dirReady = true →
    exec .pulseEnable s = .next { s with
      eng := { s.eng with EN := true, pPhase := .high, pRem := s.cfg.pulseTicks }
      now := s.now + 1 })
  ∧ (∀ (p : Params) (e : Engine) (ins : List In), e.Inv → e.run = false → e.EN = true →
      e.pPhase = .high → e.pRem = p.pulseTicks → 1 ≤ p.pulseTicks → noReset ins →
      (ins.length < p.pulseTicks → (e.after p ins).EN = true ∧ (e.after p ins).dirReady = false)
      ∧ (ins.length = p.pulseTicks → (e.after p ins).EN = false ∧ (e.after p ins).dirReady = true
          ∧ ∀ t, e.latches p t ins = [⟨t + p.pulseTicks, e.RS, e.D⟩]))

/-- R96: both in one tick: the level first, the pulse second, so on signal 4 the pulse wins; a `set_run` of that tick is
refused, and so are both with the direct port closed. -/
def Obligations.SetLevelWithPulseAppliesBoth : Prop :=
  (∀ (p : Params) (e : Engine) (g : BitVec 3) (b : Bool),
    e.tick p { In.direct true true g b with setRun := true } = e.tick p (In.direct true true g b))
  ∧ (∀ (g : BitVec 3) (b : Bool) (s : State), s.eng.dirReady = false →
    exec (.setLevelPulse g b) s = .next (s.clock In.quiet))
  ∧ ∀ (g : BitVec 3) (b : Bool) (s : State), s.eng.Inv → s.eng.dirReady = true →
    ∃ t, exec (.setLevelPulse g b) s = .next t
      ∧ t.eng = { s.eng with EN := true, pPhase := .high, pRem := s.cfg.pulseTicks,
                             D := t.eng.D, RS := t.eng.RS }
      ∧ (∀ k, k < 4 → t.eng.D.getLsbD k = if k = g.toNat then b else s.eng.D.getLsbD k)
      ∧ t.eng.RS = (if g = 5 then b else s.eng.RS)
      ∧ t.prod = s.prod ∧ t.cfg = s.cfg ∧ t.now = s.now + 1 ∧ t.events = s.events

/-- R208, RF1 to RF6: a refused request changes nothing because of it: the step is the one without it. -/
def Obligations.RefusedRequestsChangeNothing : Prop :=
  ∀ s : State,
    (s.eng.run = false → exec .advance s = .next (s.clock In.quiet))
    ∧ (s.eng.state ≠ .idle → exec .advance s = .next (s.clock In.quiet))
    ∧ (∀ g b, s.eng.dirReady = false → exec (.setLevel g b) s = .next (s.clock In.quiet))
    ∧ (∀ g b, 6 ≤ g.toNat → exec (.setLevel g b) s = .next (s.clock In.quiet))
    ∧ (s.eng.dirReady = false → exec .pulseEnable s = .next (s.clock In.quiet))
    ∧ (∀ g b, s.eng.dirReady = false → exec (.setLevelPulse g b) s = .next (s.clock In.quiet))
    ∧ (s.eng.dirReady = false → exec .setRun s = .next (s.clock In.quiet))
    ∧ (∀ inp : In, inp.dirPulse = true →
        s.clock { inp with setRun := true } = s.clock { inp with setRun := false })

/-- R99: each nibble macro presents `SETLEVEL 5, 0` in its tick and leaves four SETLEVEL and one PULSE as the
host's next lines. That it expands in the same tick is the model's reading, log entry 2. -/
def Obligations.SendNibbleExpands : Prop :=
  ∀ (i : Instr) (n : Nibble) (s : State),
    i = .sendNibble n ∨ (i = .sendNibble3 ∧ n = 3) ∨ (i = .sendNibble2 ∧ n = 2) →
    s.eng.Inv → s.eng.dirReady = true →
    exec i s = .next { s with
      eng := { s.eng with RS := false }
      prod := ⟨s.prod.cursor,
        .op (.dp (encodeDirect false true 0 (n.getLsbD 0)))
        :: .op (.dp (encodeDirect false true 1 (n.getLsbD 1)))
        :: .op (.dp (encodeDirect false true 2 (n.getLsbD 2)))
        :: .op (.dp (encodeDirect false true 3 (n.getLsbD 3)))
        :: .op (.dp (encodeDirect true false 0 false)) :: s.prod.program⟩
      now := s.now + 1 }

/-- R99: run to its end in direct mode, a nibble-only transmission is six ticks of requests and one latch event
with RS = 0 and the nibble, at the tick in which EN falls. Log entry 2. -/
def Obligations.SendNibbleLatchesItsNibble : Prop :=
  ∀ (n : Nibble) (s : State), s.eng.Inv → s.eng.dirReady = true → s.eng.EN = false →
    1 ≤ s.cfg.pulseTicks → s.prod.program = [.op (.nib (encodeNibble n))] →
    Host.Core.run core (6 + s.cfg.pulseTicks) s = .next { s with
      eng := { s.eng with RS := false, D := n }
      prod := { s.prod with program := [] }
      now := s.now + 6 + s.cfg.pulseTicks
      events := s.events ++ [⟨s.now + 6 + s.cfg.pulseTicks, false, n⟩] }

/-- R83, R99, R192: a macro whose first line is not accepted has expanded all the same; that line is held as the host's
next one, and the tick is as without it. Log entry 2; 26 for the opcode of the cursor-set words; 27 where the
bootstrap is not complete. -/
def Obligations.MacrosWaitForTheirPort : Prop :=
  ∀ s : State,
    (s.eng.dirReady = false → ∀ (i : Instr) (n : Nibble),
      i = .sendNibble n ∨ (i = .sendNibble3 ∧ n = 3) ∨ (i = .sendNibble2 ∧ n = 2) →
      exec i s = .next { s.clock In.quiet with
        prod := ⟨s.prod.cursor,
          .op (.dp (encodeDirect false true 5 false))
          :: .op (.dp (encodeDirect false true 0 (n.getLsbD 0)))
          :: .op (.dp (encodeDirect false true 1 (n.getLsbD 1)))
          :: .op (.dp (encodeDirect false true 2 (n.getLsbD 2)))
          :: .op (.dp (encodeDirect false true 3 (n.getLsbD 3)))
          :: .op (.dp (encodeDirect true false 0 false)) :: s.prod.program⟩ })
    ∧ (10 ≤ s.eng.q.length → exec .writeCharTilde s = .next { s.clock In.quiet with
        prod := ⟨s.prod.cursor,
          .op (.push (clearDisplayWord s.cfg)) :: .setCursor 0x00 :: .op .advance :: s.prod.program⟩ })
    ∧ (10 ≤ s.eng.q.length → s.prod.cursor ≠ 0 →
      exec .writeCharBackspace s = .next { s.clock In.quiet with
        prod := ⟨cursorPrev s.prod.cursor,
          .op (.push (cursorSetWord s.cfg (cursorPrev s.prod.cursor)))
          :: .op (.push (dataWriteWord s.cfg 0x20))
          :: .op (.push (cursorSetWord s.cfg (cursorPrev s.prod.cursor)))
          :: .op .advance :: s.prod.program⟩ })
    ∧ (10 ≤ s.eng.q.length → ∀ c, exec (.writeCharOther c) s = .next { s.clock In.quiet with
        prod := ⟨s.prod.cursor,
          .op (.push (cursorSetWord s.cfg s.prod.cursor)) :: .op (.push (dataWriteWord s.cfg c))
          :: .setCursor (cursorNext s.prod.cursor) :: .op .advance :: s.prod.program⟩ })

/-! ### The queue, the trigger, run mode -/

/-- R111: a word presented while there is room is appended and all else is as without it; a word presented to a full
queue is not accepted and nothing changes because of it. -/
def Obligations.PushAppendsOrWaits : Prop :=
  ∀ (w : Word) (s : State),
    (s.eng.q.length < 10 → exec (.push w) s = .next { s.clock In.quiet with
      eng := { (s.clock In.quiet).eng with q := (s.clock In.quiet).eng.q ++ [w] } })
    ∧ (10 ≤ s.eng.q.length → exec (.push w) s = .next (s.clock In.quiet))

/-- R113: the oldest word is removed and is the result, in `active` (that destination and the lack of a tick are the
model's choice, log entry 7); an empty queue is unchanged. -/
def Obligations.PopRemovesTheOldestWord : Prop :=
  ∀ s : State,
    (∀ w rest, s.eng.q = w :: rest →
      exec .pop s = .next { s with eng := { s.eng with q := rest, active := w } })
    ∧ (s.eng.q = [] → exec .pop s = .next s)

/-- R129, R131: the trigger in Idle in run mode takes the oldest word, or does nothing if there is none. -/
def Obligations.AdvanceStartsAnIdleMachine : Prop :=
  ∀ s : State, s.eng.Inv → s.eng.run = true → s.eng.state = .idle →
    exec .advance s = .next { s with
      eng := match s.eng.q with
        | w :: rest => { s.eng with q := rest, active := w, state := .sendingHigh, tArmed := true,
                                    tRem := s.cfg.minTicks }
        | []        => s.eng
      now := s.now + 1 }

/-- R139: an accepted SET_RUN enters run mode and changes nothing else; from then on the direct port is closed. -/
def Obligations.SetRunEntersRunMode : Prop :=
  ∀ s : State, s.eng.Inv → s.eng.run = false → s.eng.pPhase = .idle →
    exec .setRun s = .next { s with eng := { s.eng with run := true }, now := s.now + 1 }

/-- R28, R139: run mode ends only by reset, and in it direct requests and SET_RUN change nothing. -/
def Obligations.RunModeClosesTheDirectPort : Prop :=
  ∀ (p : Params) (e : Engine) (inp : In), e.run = true → inp.rst = false →
    (e.tick p inp).run = true
    ∧ e.tick p inp = e.tick p { inp with dirSet := false, dirPulse := false, setRun := false }

/-- R213: the results of simultaneous events, pair by pair. -/
def Obligations.SimultaneousEvents : Prop :=
  ∀ (p : Params) (e : Engine) (w : Word),
    (e.state = .idle → e.q = [] →
      (e.tick p { In.pushOf w with advance := true }).q = [w]
      ∧ (e.tick p { In.pushOf w with advance := true }).state = .idle)
    ∧ (e.state = .executing → e.fire = true → e.q = [] →
      (e.tick p (In.pushOf w)).q = [w] ∧ (e.tick p (In.pushOf w)).state = .idle)
    ∧ (e.q.length = 10 → e.wantAdvance true = true →
      (e.tick p { In.pushOf w with advance := true }).q = e.q.drop 1
      ∧ (e.tick p { In.pushOf w with advance := true }).pushReady = true)
    ∧ (0 < e.q.length → e.q.length < 10 → e.wantAdvance true = true →
      (e.tick p { In.pushOf w with advance := true }).q = e.q.drop 1 ++ [w])
    ∧ (e.state = .executing → e.fire = true →
      e.tick p In.trigger = e.tick p In.quiet ∧ (e.tick p In.trigger).q = e.q.drop 1)
    ∧ (e.state = .sendingHigh ∨ e.state = .sendingLow → e.fire = true →
      e.tick p In.trigger = e.tick p In.quiet)
    ∧ (e.Inv → e.dirReady = true →
      e.tick p { In.goRun with advance := true } = { e with run := true })
    ∧ (e.Inv → e.dirReady = true →
      e.tick p { In.goRun with dirPulse := true }
        = { e with EN := true, pPhase := .high, pRem := p.pulseTicks })
    ∧ (e.Inv → e.dirReady = true → ∀ g b,
      e.tick p { In.direct false true g b with setRun := true }
        = { e.tick p (In.direct false true g b) with run := true })
    ∧ (e.Inv → e.dirReady = true → ∀ g b,
      e.tick p (In.direct true true g b)
        = { e.tick p (In.direct false true g b) with EN := true, pPhase := .high, pRem := p.pulseTicks }
      ∧ (∀ k, k < 4 →
        (e.tick p (In.direct true true g b)).D.getLsbD k = if k = g.toNat then b else e.D.getLsbD k)
      ∧ (e.tick p (In.direct true true g b)).RS = (if g = 5 then b else e.RS))
    ∧ (e.Inv → ¬ (e.fire = true ∧ e.pulseDone = true))

/-- R120: a push line into a full queue that nothing drains is held for ever: however many steps, the queue and the
program stay. -/
def Obligations.PushIntoAStuckQueueWaitsForEver : Prop :=
  ∀ (s : State) (w : Word) (rest : List Line) (k : Nat), s.eng.Inv → s.eng.stuckFull →
    s.prod.program = .op (.push w) :: rest →
    ∃ t, Host.Core.run core k s = .next t ∧ t.eng.q = s.eng.q ∧ t.prod.program = s.prod.program
      ∧ t.eng.stuckFull

/-- R114, R115: over any inputs without reset, the words held and accepted, in order, are the words taken and still
held, in order: none is lost, doubled, reordered or invented. -/
def Obligations.QueueIsFirstInFirstOut : Prop :=
  ∀ (p : Params) (e : Engine) (ins : List In), noReset ins →
    e.q ++ e.accepted p ins = e.popped p ins ++ (e.after p ins).q

/-- R40: the ring buffer realizes the FIFO: in every tick its abstract sequence moves as the FIFO does, its head is
the FIFO's, and its form is kept. -/
def Obligations.RingBufferRefinesTheQueue : Prop :=
  (∀ (r : RingBuffer) (pop : Bool) (push : Option Word), r.wf →
    (r.tick pop push).wf ∧ (r.tick pop push).queue = queueNext r.queue pop push
    ∧ r.queue.length = r.cnt ∧ r.head = r.queue.head?)
  ∧ (∀ mem : Vector Word 10, (RingBuffer.resetTo mem).wf ∧ (RingBuffer.resetTo mem).queue = [])

/-! ### The whole engine -/

/-- R22: `active` is written only by the dequeue, all its bits at once, with the word taken. -/
def Obligations.ActiveChangesOnlyByDequeue : Prop :=
  ∀ (p : Params) (e : Engine) (inp : In), inp.rst = false →
    (e.tick p inp).active = (e.poppedNow inp).headD e.active

/-- R69, R29: in run mode the levels of RS and D change only on the expiry that drives a nibble; so they are stable
from then until the timer armed after the pulse expires. -/
def Obligations.LinesChangeOnlyWhenANibbleIsDriven : Prop :=
  ∀ (p : Params) (e : Engine) (inp : In), e.Inv → e.run = true → inp.rst = false →
    ¬ ((e.state = .sendingHigh ∨ e.state = .sendingLow) ∧ e.fire = true) →
    (e.tick p inp).RS = e.RS ∧ (e.tick p inp).D = e.D

/-- R145: the transition graph, whole: the next phase from the phase and the tick's events. -/
def Obligations.PhaseFollowsTheCycle : Prop :=
  ∀ (p : Params) (e : Engine) (inp : In), e.Inv → inp.rst = false →
    (e.tick p inp).state = match e.state with
      | .idle        => if inp.advance = true ∧ e.run = true ∧ e.q ≠ [] then .sendingHigh else .idle
      | .sendingHigh => if e.pulseDone = true then .sendingLow else .sendingHigh
      | .sendingLow  => if e.pulseDone = true then .executing else .sendingLow
      | .executing   =>
        if e.fire = true then (if e.q ≠ [] then .sendingHigh else .idle) else .executing

/-- R148: events that cannot occur; and where a state allows one all the same, it changes nothing but the timer's and
the sequencer's own registers. -/
def Obligations.EventsThatCannotOccur : Prop :=
  (∀ e : Engine, e.Inv →
    (e.state = .idle → e.fire = false)
    ∧ (e.run = true → e.state = .idle ∨ e.state = .executing → e.pulseDone = false)
    ∧ ¬ (e.fire = true ∧ e.pulseDone = true))
  ∧ (∀ (p : Params) (e : Engine),
    (e.state = .idle ∨ (e.state = .executing ∧ e.fire = false) →
      e.tick p In.quiet = (e.pulseStep p).timerStep
      ∧ e.tick p In.quiet = { e with
          tArmed := (e.tick p In.quiet).tArmed, tRem := (e.tick p In.quiet).tRem
          pPhase := (e.tick p In.quiet).pPhase, pRem := (e.tick p In.quiet).pRem
          EN := (e.tick p In.quiet).EN }))

/-- R36, R38, R100, R116: each output is a function of the state, with the enable line at the asserted level of the
instance. -/
def Obligations.OutputsAreFunctionsOfTheState : Prop :=
  ∀ (p : Params) (e : Engine),
    ((e.outputs p).pushReady = true ↔ e.q.length < 10)
    ∧ ((e.outputs p).empty = true ↔ e.q.length = 0)
    ∧ ((e.outputs p).idle = true ↔ e.state = .idle)
    ∧ ((e.outputs p).dirReady = true ↔ e.run = false ∧ e.pPhase = .idle)
    ∧ (e.outputs p).run = e.run ∧ (e.outputs p).D = e.D ∧ (e.outputs p).RS = e.RS
    ∧ ((e.outputs p).EN = p.enActive ↔ e.EN = true)

/-- R38: what makes each status output rise and fall, short of reset. -/
def Obligations.StatusOutputsMoveOnlyAsListed : Prop :=
  ∀ (p : Params) (e : Engine) (inp : In), e.Inv → inp.rst = false →
    (e.pushReady = false → (e.tick p inp).pushReady = true → e.poppedNow inp ≠ [])
    ∧ (e.pushReady = true → (e.tick p inp).pushReady = false → e.acceptedNow inp ≠ [])
    ∧ (e.empty = false → (e.tick p inp).empty = true → e.poppedNow inp = e.q)
    ∧ (e.empty = true → (e.tick p inp).empty = false → e.acceptedNow inp ≠ [])
    ∧ (e.isIdle = false → (e.tick p inp).isIdle = true →
        e.state = .executing ∧ e.fire = true ∧ e.q = [])
    ∧ (e.isIdle = true → (e.tick p inp).isIdle = false → e.poppedNow inp ≠ [])
    ∧ (e.dirReady = false → (e.tick p inp).dirReady = true → e.run = false ∧ e.pulseDone = true)
    ∧ (e.dirReady = true → (e.tick p inp).dirReady = false →
        inp.dirPulse = true ∨ (e.tick p inp).run = true)
    ∧ (e.run = false → (e.tick p inp).run = true →
        inp.setRun = true ∧ inp.dirPulse = false ∧ e.dirReady = true)

/-- R144, R62, R52: in run mode, over any inputs without reset, the latch events are, in order, the two nibbles of each
word taken, high then low, with RS at its `is_data`; what is not yet sent is still owed by the word in
flight. -/
def Obligations.LatchesAreTheNibblesOfTheWords : Prop :=
  ∀ (p : Params) (t : Nat) (e : Engine) (ins : List In), noReset ins → e.Inv → e.EnTracks →
    e.run = true →
    e.owed ++ (e.popped p ins).flatMap wordLevels
      = (e.latches p t ins).map Latch.levels ++ (e.after p ins).owed

/-- R147, R141: from the state in which a word is first in `active` the machine reaches the advance operation after
exactly `2 * (MIN + SETUP + PULSE) + d` ticks, whatever the inputs are, short of reset. -/
def Obligations.WordRunsToCompletion : Prop :=
  ∀ (p : Params) (e : Engine) (ins : List In), 1 ≤ p.pulseTicks → 1 ≤ p.minTicks.toNat → e.Inv →
    e.state = .sendingHigh → e.tArmed = true → e.tRem = p.minTicks → noReset ins →
    (ins.length < wordTicks p e.active →
      (e.after p ins).state ≠ .idle ∧ (e.after p ins).active = e.active ∧ e.popped p ins = [])
    ∧ (ins.length + 1 = wordTicks p e.active →
      (e.after p ins).state = .executing ∧ (e.after p ins).fire = true)

/-- R140: the schedule of one instruction at the reference parameters, row by row, and its two latch events. The last
row is the advance operation's: the word then at the head of the queue in SendingHigh, or Idle. -/
def Obligations.WordKeepsTheReferenceSchedule : Prop :=
  ∀ (e : Engine) (ins : List In), e.Inv → e.EN = false → e.state = .sendingHigh → e.tArmed = true →
    e.tRem = Params.ref.minTicks → noReset ins →
    let f := fieldsOf e.active
    let r := e.after Params.ref ins
    (ins.length = 1 → r.state = .sendingHigh ∧ r.tArmed = false ∧ r.pPhase = .setup
      ∧ r.RS = f.isData ∧ r.D = f.hi ∧ r.EN = false)
    ∧ (ins.length = 2 → r.state = .sendingHigh ∧ r.tArmed = false ∧ r.pPhase = .high
      ∧ r.RS = f.isData ∧ r.D = f.hi ∧ r.EN = true)
    ∧ (ins.length = 3 → r.state = .sendingLow ∧ r.tArmed = true ∧ r.tRem = 1 ∧ r.pPhase = .idle
      ∧ r.RS = f.isData ∧ r.D = f.hi ∧ r.EN = false)
    ∧ (ins.length = 4 → r.state = .sendingLow ∧ r.tArmed = false ∧ r.pPhase = .setup
      ∧ r.RS = f.isData ∧ r.D = f.lo ∧ r.EN = false)
    ∧ (ins.length = 5 → r.state = .sendingLow ∧ r.tArmed = false ∧ r.pPhase = .high
      ∧ r.RS = f.isData ∧ r.D = f.lo ∧ r.EN = true)
    ∧ (6 ≤ ins.length → ins.length < 6 + f.timerLoad.toNat →
      r.state = .executing ∧ r.tArmed = true
      ∧ r.tRem.toNat = f.timerLoad.toNat - (ins.length - 6) ∧ r.pPhase = .idle
      ∧ r.RS = f.isData ∧ r.D = f.lo ∧ r.EN = false
      ∧ ∀ t, e.latches Params.ref t ins = [⟨t + 3, f.isData, f.hi⟩, ⟨t + 6, f.isData, f.lo⟩])
    ∧ (ins.length = 6 + f.timerLoad.toNat →
      (match (e.after Params.ref ins.dropLast).q with
        | w :: _ => r.state = .sendingHigh ∧ r.active = w ∧ r.tArmed = true ∧ r.tRem = 1
        | []     => r.state = .idle ∧ r.tArmed = false)
      ∧ r.pPhase = .idle ∧ r.RS = f.isData ∧ r.D = f.lo ∧ r.EN = false
      ∧ ∀ t, e.latches Params.ref t ins = [⟨t + 3, f.isData, f.hi⟩, ⟨t + 6, f.isData, f.lo⟩])

/-- R62, R140, R141: at the reference parameters one trigger drains a queue of words back to back: the latch events fall
at the scheduled ticks, in queue order, and the machine is idle and empty again after the scheduled
time. The parameters in State are log entry 3. -/
def Obligations.TriggerDrainsTheQueueOnSchedule : Prop :=
  ∀ (s : State) (w : Word) (rest : List Word), s.eng.Inv → s.eng.EN = false → s.eng.run = true →
    s.eng.state = .idle → s.eng.q = w :: rest → s.cfg = Params.ref → s.prod.program = [.op .advance] →
    ∃ t, Host.Core.run core (1 + scheduledTicks (w :: rest)) s = .next t
      ∧ t.eng.state = .idle ∧ t.eng.q = [] ∧ t.eng.run = true ∧ t.eng.EN = false
      ∧ t.eng.D = (fieldsOf ((w :: rest).getLast (List.cons_ne_nil w rest))).lo
      ∧ t.events = s.events ++ scheduled (s.now + 1) (w :: rest)
      ∧ t.prod.program = [] ∧ t.now = s.now + 1 + scheduledTicks (w :: rest)

/-! ### The host's agents -/

/-- R187: the two cursor functions on all addresses, and that they keep the visible range; R194: after 16 characters the
cursor stands at 0x40, after 17 at 0x41. -/
def Obligations.CursorStepsAndWraps : Prop :=
  cursorNext 0x0F = 0x40 ∧ cursorNext 0x4F = 0x00 ∧ cursorPrev 0x40 = 0x0F
  ∧ (∀ a : Addr, a.toNat < 0x0F ∨ (0x40 ≤ a.toNat ∧ a.toNat < 0x4F) → cursorNext a = a + 1)
  ∧ (∀ a : Addr, 0x0F ≤ a.toNat → a.toNat ≤ 0x3F → cursorNext a = 0x40)
  ∧ (∀ a : Addr, 0x4F ≤ a.toNat → cursorNext a = 0x00)
  ∧ (∀ a : Addr, a ≠ 0 → a ≠ 0x40 → cursorPrev a = a - 1)
  ∧ (∀ a : Addr, visible a → visible (cursorNext a))
  ∧ (∀ a : Addr, visible a → a ≠ 0 → visible (cursorPrev a))
  ∧ (∀ a : Addr, visible a → a ≠ 0x4F → cursorPrev (cursorNext a) = a)
  ∧ cursorNext^[16] 0x00 = 0x40 ∧ cursorNext^[17] 0x00 = 0x41

/-- R163, R156 to R162: the words the agents build hold opcode, `is_data`, and the delay with the margin added; no sum
wraps where the parameters meet R10 and the delays that are parameters are not longer than the longest delay that
R10 leaves room for, 1530. That the producer's sum is taken in 16 bits is the model's choice, log entry 20, and so
is the fixed opcode pattern of a cursor-set, 0x80 with the address, log entry 26. -/
def Obligations.AgentWordsCarryDelayAndMargin : Prop :=
  ∀ p : Params, p.wf → p.displayOnDelay.toNat ≤ 1530 → p.cursorSetDelay.toNat ≤ 1530 →
    p.dataWriteDelay.toNat ≤ 1530 → ∀ (a : Addr) (c : Byte),
    fieldsOf (functionSetWord p) = ⟨false, 39 + p.safetyMargin, 0x28⟩
    ∧ fieldsOf (displayOffWord p) = ⟨false, 39 + p.safetyMargin, 0x08⟩
    ∧ fieldsOf (clearDisplayWord p) = ⟨false, 1530 + p.safetyMargin, 0x01⟩
    ∧ fieldsOf (entryModeSetWord p) = ⟨false, 39 + p.safetyMargin, 0x06⟩
    ∧ fieldsOf (displayOnWord p) = ⟨false, p.displayOnDelay + p.safetyMargin, p.displayOnOpcode⟩
    ∧ fieldsOf (cursorSetWord p a)
        = ⟨false, p.cursorSetDelay + p.safetyMargin, 0x80#8 ||| a.setWidth 8⟩
    ∧ fieldsOf (dataWriteWord p c) = ⟨true, p.dataWriteDelay + p.safetyMargin, c⟩
    ∧ (39 + p.safetyMargin : Delay).toNat = 39 + p.safetyMargin.toNat
    ∧ (1530 + p.safetyMargin : Delay).toNat = 1530 + p.safetyMargin.toNat
    ∧ (p.displayOnDelay + p.safetyMargin).toNat = p.displayOnDelay.toNat + p.safetyMargin.toNat
    ∧ (p.cursorSetDelay + p.safetyMargin).toNat = p.cursorSetDelay.toNat + p.safetyMargin.toNat
    ∧ (p.dataWriteDelay + p.safetyMargin).toNat = p.dataWriteDelay.toNat + p.safetyMargin.toNat

/-- R188, R189, R190: the three branches of writeCharacter, where the queue has room: the first word is accepted in this
tick and the rest of the expansion stands as the host's next lines; backspace at cursor 0 only triggers.
Log entry 2; 26 for the opcode of the cursor-set words. That a call before the bootstrap is complete does the same is the
model's choice, log entry 27. -/
def Obligations.WriteCharacterExpands : Prop :=
  ∀ s : State, s.eng.q.length < 10 →
    (exec .writeCharTilde s = .next { s.clock In.quiet with
      eng := { (s.clock In.quiet).eng with
        q := (s.clock In.quiet).eng.q ++ [packWord false (1530 + s.cfg.safetyMargin) 0x01] }
      prod := ⟨s.prod.cursor, .setCursor 0x00 :: .op .advance :: s.prod.program⟩ })
    ∧ (s.prod.cursor = 0 → exec .writeCharBackspace s = .next (s.clock In.trigger))
    ∧ (s.prod.cursor ≠ 0 → exec .writeCharBackspace s = .next { s.clock In.quiet with
      eng := { (s.clock In.quiet).eng with
        q := (s.clock In.quiet).eng.q ++ [cursorSetWord s.cfg (cursorPrev s.prod.cursor)] }
      prod := ⟨cursorPrev s.prod.cursor,
        .op (.push (dataWriteWord s.cfg 0x20))
        :: .op (.push (cursorSetWord s.cfg (cursorPrev s.prod.cursor)))
        :: .op .advance :: s.prod.program⟩ })
    ∧ (∀ c, exec (.writeCharOther c) s = .next { s.clock In.quiet with
      eng := { (s.clock In.quiet).eng with
        q := (s.clock In.quiet).eng.q ++ [cursorSetWord s.cfg s.prod.cursor] }
      prod := ⟨s.prod.cursor,
        .op (.push (dataWriteWord s.cfg c)) :: .setCursor (cursorNext s.prod.cursor)
        :: .op .advance :: s.prod.program⟩ })

/-- R192: a whole call of writeCharacter on a booted, idle, empty engine: the words of its branch are queued in order,
the cursor is where the branch puts it, and the trailing trigger has started the first word; the
no-op branch leaves everything but time. Log entry 2; 26 for the opcode of the cursor-set words. -/
def Obligations.WriteCharacterCall : Prop :=
  ∀ (s : State) (c : Byte), s.eng.Inv → s.eng.booted → s.prod.program = [.op (.char c)] →
    let started (w : Word) (rest : List Word) (cur : Addr) (k : Nat) : State := { s with
      eng := { s.eng with q := rest, active := w, state := .sendingHigh, tArmed := true,
                          tRem := s.cfg.minTicks }
      prod := ⟨cur, []⟩
      now := s.now + k }
    (c = 0x7E → Host.Core.run core 2 s = .next (started (clearDisplayWord s.cfg) [] 0x00 2))
    ∧ (c = 0x08 → s.prod.cursor = 0 →
        Host.Core.run core 1 s = .next { s with prod := ⟨0, []⟩, now := s.now + 1 })
    ∧ (c = 0x08 → s.prod.cursor ≠ 0 →
        Host.Core.run core 4 s = .next (started (cursorSetWord s.cfg (cursorPrev s.prod.cursor))
          [dataWriteWord s.cfg 0x20, cursorSetWord s.cfg (cursorPrev s.prod.cursor)]
          (cursorPrev s.prod.cursor) 4))
    ∧ (c ≠ 0x7E → c ≠ 0x08 →
        Host.Core.run core 3 s = .next (started (cursorSetWord s.cfg s.prod.cursor)
          [dataWriteWord s.cfg c] (cursorNext s.prod.cursor) 3))

/-- R171: initialize() resets the engine in its tick and leaves the waits, the four nibbles, SETRUN, the five words,
ADVANCE and WAITIDLE, in that order, as the host's next lines. The exact waits and the cursor left alone are the
model's, log entries 2, 17, 19; so is what a second call does, the same again, log entry 25. -/
def Obligations.InitializeExpands : Prop :=
  ∀ s : State, ∃ t, exec .initCall s = .next t ∧ t.eng.IsReset
    ∧ t.cfg = s.cfg ∧ t.now = s.now + 1 ∧ t.prod.cursor = s.prod.cursor
    ∧ t.events = s.events ++ (if s.eng.EN then [⟨s.now + 1, false, 0⟩] else [])
    ∧ t.prod.program =
      [.wait s.cfg.boot.powerOn,
       .op (.nib 0x03), .wait (s.cfg.boot.after1 + (s.cfg.pulseTicks - 1)),
       .op (.nib 0x03), .wait (s.cfg.boot.after2 + (s.cfg.pulseTicks - 1)),
       .op (.nib 0x03), .wait (s.cfg.boot.after3 + (s.cfg.pulseTicks - 1)),
       .op (.nib 0x02), .wait (s.cfg.boot.after4 + (s.cfg.pulseTicks - 1)), .op .setRun, .op (.push (functionSetWord s.cfg)),
       .op (.push (displayOffWord s.cfg)), .op (.push (clearDisplayWord s.cfg)),
       .op (.push (entryModeSetWord s.cfg)), .op (.push (displayOnWord s.cfg)), .op .advance,
       .waitIdle] ++ s.prod.program

/-- R179: at the reference parameters, from any state, initialize() produces exactly the fourteen latch events of the
bootstrap at their ticks (and the one of its reset, if EN was asserted), and after 21028 ticks the
engine is in run mode, idle and empty. Exact waits: the model's choice, log entry 19; see also 2 and 3, and 25 where the
state is one after an earlier call. The cursor stays where it was: the model's reading, log entry 17. -/
def Obligations.BootstrapProducesTheFourteenEvents : Prop :=
  ∀ s : State, s.cfg = Params.ref → s.prod.program = [.op .initCall] →
    ∃ t, Host.Core.run core 21028 s = .next t ∧ t.eng.booted
      ∧ t.eng.D = 0xC ∧ t.eng.RS = false ∧ t.eng.EN = false ∧ t.prod = ⟨s.prod.cursor, [.waitIdle]⟩
      ∧ t.events = s.events ++ (if s.eng.EN then [⟨s.now + 1, false, 0⟩] else []) ++
        [⟨s.now + 15008, false, 0x3⟩, ⟨s.now + 19114, false, 0x3⟩, ⟨s.now + 19220, false, 0x3⟩,
         ⟨s.now + 19266, false, 0x2⟩, ⟨s.now + 19315, false, 0x2⟩, ⟨s.now + 19318, false, 0x8⟩,
         ⟨s.now + 19360, false, 0x0⟩, ⟨s.now + 19363, false, 0x8⟩, ⟨s.now + 19405, false, 0x0⟩,
         ⟨s.now + 19408, false, 0x1⟩, ⟨s.now + 20941, false, 0x0⟩, ⟨s.now + 20944, false, 0x6⟩,
         ⟨s.now + 20986, false, 0x0⟩, ⟨s.now + 20989, false, 0xC⟩]

/-! ### Encoding -/

/-- Decoding the encoding of a well-formed instruction gives it back, whatever its operands (R70, R79, R80, R81, R85);
POP alone has no encoding (R113). -/
def Obligations.DecodeOfEncodeIsTheInstruction : Prop :=
  ∀ i : Instr, (encode i = none ↔ i = .pop)
    ∧ (WellFormed i = true → ∀ e, encode i = some e → decode e = .ok i)

/-- R77, R85, R86: every one of the 2^25 words decodes to a well-formed instruction that encodes back to it and that
carries the word's own fields. -/
def Obligations.EveryWordIsOneInstruction : Prop :=
  ∀ w : Word, encode (decodeWord w) = some (.iw w) ∧ WellFormed (decodeWord w) = true
    ∧ wordOf (decodeWord w) = some (fieldsOf w)

/-- R86: packing and reading back the three fields are inverse. -/
def Obligations.FieldsAndWordsAreInverse : Prop :=
  (∀ (i : Bool) (d : Delay) (o : Byte), fieldsOf (packWord i d o) = ⟨i, d, o⟩)
  ∧ (∀ w : Word, packWord (fieldsOf w).isData (fieldsOf w).delay (fieldsOf w).opcode = w)
  ∧ (∀ (i : Bool) (d : Delay) (o : Byte),
      (packWord i d o).toNat = i.toNat * 2 ^ 24 + d.toNat * 2 ^ 8 + o.toNat)

/-- Words written out from R70, R76, R79, R80 and R86 decode to what they stand for, the named rows as R85 says and the
two bytes of writeCharacter by R188 and R189, the display-on and cursor-set rows by the table's patterns (log entry
26). That 0x1002B41 is named DATA_WRITE.writer is the model's reading, log entry 9: the two rows have one mask. -/
def Obligations.WordsOfTheSpecDecode : Prop :=
  decode (.iw 0x0002728) = .ok (.functionSet 39) ∧ decode (.iw 0x0002708) = .ok (.displayOff 39)
  ∧ decode (.iw 0x005FA01) = .ok (.clearDisplay 1530) ∧ decode (.iw 0x0002706) = .ok (.entryModeSet 39)
  ∧ decode (.iw 0x000270C) = .ok (.displayOn 39) ∧ decode (.iw 0x00027CF) = .ok (.cursorSet 0x4F 39)
  ∧ decode (.iw 0x1002B41) = .ok (.dataWriteWriter 0x41)
  ∧ decode (.iw 0x1FFFFFF) = .ok (.dataWrite 0xFF 65535) ∧ decode (.iw 0x000005A) = .ok (.cmd 0x5A 0)
  ∧ decode (.host (.dp 0b010001)) = .ok (.setLevel 0 true)
  ∧ decode (.host (.dp 0b011010)) = .ok (.setLevel 5 false)
  ∧ decode (.host (.dp 0b100000)) = .ok .pulseEnable
  ∧ decode (.host (.dp 0b110011)) = .ok (.setLevelPulse 1 true)
  ∧ decode (.host (.nib 0b00011)) = .ok .sendNibble3 ∧ decode (.host (.nib 0b00010)) = .ok .sendNibble2
  ∧ decode (.host (.char 0x7E)) = .ok .writeCharTilde
  ∧ decode (.host (.char 0x08)) = .ok .writeCharBackspace

/-! ### The waits of the bootstrap -/

/-- R174: between two nibbles with a wait of the bootstrap of at least one tick between them, EN is idle from the fall
of the first until `w + 5` ticks later and then rises, whatever PULSE_TICKS is; the lines hold the second nibble. That
the wait is lengthened by what is left of the pulse is the model's choice, log entry 19; see also 2. -/
def Obligations.DirectWaitsRunFromFallToRise : Prop :=
  ∀ (s : State) (a b : Nibble) (w : Nat), s.eng.Inv → s.eng.dirReady = true → s.eng.EN = false →
    1 ≤ s.cfg.pulseTicks → 1 ≤ w →
    s.prod.program = [.op (.nib (encodeNibble a)), waitAfterPulse s.cfg w, .op (.nib (encodeNibble b))] →
    let fall := 6 + s.cfg.pulseTicks
    (∀ k, k < w + 5 → ∃ t, Host.Core.run core (fall + k) s = .next t ∧ t.eng.EN = false
      ∧ t.events = s.events ++ [⟨s.now + fall, false, a⟩])
    ∧ (∃ t, Host.Core.run core (fall + w + 5) s = .next t ∧ t.eng.EN = true ∧ t.eng.D = b ∧ t.eng.RS = false
      ∧ t.events = s.events ++ [⟨s.now + fall, false, a⟩])

/-- R174, D32: in the bootstrap itself, for all parameters that meet R10, from any state: the four nibbles are latched
in order, each its wait, five ticks and the pulse after the one before, and EN stays idle for the last wait after the
fourth. Log entries 2 and 19, and 25 where the state is one after an earlier call. -/
def Obligations.BootstrapMeetsItsWaits : Prop :=
  ∀ s : State, s.cfg.wf → s.prod.program = [.op .initCall] →
    let p := s.cfg
    let fall1 := p.boot.powerOn + 7 + p.pulseTicks
    let fall2 := fall1 + p.boot.after1 + 5 + p.pulseTicks
    let fall3 := fall2 + p.boot.after2 + 5 + p.pulseTicks
    let fall4 := fall3 + p.boot.after3 + 5 + p.pulseTicks
    ∀ k, k ≤ p.boot.after4 → ∃ t, Host.Core.run core (fall4 + k) s = .next t
      ∧ t.eng.EN = false
      ∧ t.events = s.events ++ (if s.eng.EN then [⟨s.now + 1, false, 0⟩] else []) ++
        [⟨s.now + fall1, false, 0x3⟩, ⟨s.now + fall2, false, 0x3⟩, ⟨s.now + fall3, false, 0x3⟩,
         ⟨s.now + fall4, false, 0x2⟩]
end

