-- ==== Sys2Proof/Laws/Code.lean ====
section
/-! SUPPORT. The bit fields of words and patterns: packing and reading back. -/

namespace Sys2Proof

@[simp] theorem fieldsOf_pack (i : Bool) (d : Delay) (o : Byte) : fieldsOf (packWord i d o) = ⟨i, d, o⟩ := by
  simp only [fieldsOf, packWord, WordFields.mk.injEq]
  refine ⟨?_, ?_, ?_⟩
  · cases i <;> (rw [BitVec.getLsbD_append, BitVec.getLsbD_append]; rfl)
  · apply BitVec.eq_of_getLsbD_eq
    intro k hk
    rw [BitVec.getLsbD_extractLsb', BitVec.getLsbD_append, BitVec.getLsbD_append]
    simp [hk, show ¬ (8 + k < 8) by omega]
  · apply BitVec.eq_of_getLsbD_eq
    intro k hk
    rw [BitVec.getLsbD_extractLsb', BitVec.getLsbD_append]
    simp [hk]

/-- `0x80 | a` keeps the address in bits 6 to 0 and sets bit 7 (R161). -/
theorem cursorOpcode (a : Addr) : (1#1 ++ a : Byte) = 0x80#8 ||| a.setWidth 8 := by
  revert a; decide

end Sys2Proof
end

