-- ==== Sys2Proof/Laws/State.lean ====
section
/-! SUPPORT. One lemma for each field and each update of the state, true by rfl, so that later proofs unfold no
record update. -/

namespace Sys2Proof.Machine

@[simp] theorem Engine.arm_q (e : Engine) (d : Delay) : (e.arm d).q = e.q := rfl
@[simp] theorem Engine.arm_state (e : Engine) (d : Delay) : (e.arm d).state = e.state := rfl
@[simp] theorem Engine.arm_active (e : Engine) (d : Delay) : (e.arm d).active = e.active := rfl
@[simp] theorem Engine.arm_run (e : Engine) (d : Delay) : (e.arm d).run = e.run := rfl
@[simp] theorem Engine.arm_tArmed (e : Engine) (d : Delay) : (e.arm d).tArmed = true := rfl
@[simp] theorem Engine.arm_tRem (e : Engine) (d : Delay) : (e.arm d).tRem = d := rfl
@[simp] theorem Engine.arm_pPhase (e : Engine) (d : Delay) : (e.arm d).pPhase = e.pPhase := rfl
@[simp] theorem Engine.arm_pRem (e : Engine) (d : Delay) : (e.arm d).pRem = e.pRem := rfl
@[simp] theorem Engine.arm_D (e : Engine) (d : Delay) : (e.arm d).D = e.D := rfl
@[simp] theorem Engine.arm_RS (e : Engine) (d : Delay) : (e.arm d).RS = e.RS := rfl
@[simp] theorem Engine.arm_EN (e : Engine) (d : Delay) : (e.arm d).EN = e.EN := rfl

@[simp] theorem Engine.drive_q (e : Engine) (b : Bool) (n : Nibble) : (e.drive b n).q = e.q := rfl
@[simp] theorem Engine.drive_state (e : Engine) (b : Bool) (n : Nibble) : (e.drive b n).state = e.state := rfl
@[simp] theorem Engine.drive_active (e : Engine) (b : Bool) (n : Nibble) : (e.drive b n).active = e.active := rfl
@[simp] theorem Engine.drive_run (e : Engine) (b : Bool) (n : Nibble) : (e.drive b n).run = e.run := rfl
@[simp] theorem Engine.drive_tArmed (e : Engine) (b : Bool) (n : Nibble) : (e.drive b n).tArmed = e.tArmed := rfl
@[simp] theorem Engine.drive_tRem (e : Engine) (b : Bool) (n : Nibble) : (e.drive b n).tRem = e.tRem := rfl
@[simp] theorem Engine.drive_pPhase (e : Engine) (b : Bool) (n : Nibble) : (e.drive b n).pPhase = e.pPhase := rfl
@[simp] theorem Engine.drive_pRem (e : Engine) (b : Bool) (n : Nibble) : (e.drive b n).pRem = e.pRem := rfl
@[simp] theorem Engine.drive_D (e : Engine) (b : Bool) (n : Nibble) : (e.drive b n).D = n := rfl
@[simp] theorem Engine.drive_RS (e : Engine) (b : Bool) (n : Nibble) : (e.drive b n).RS = b := rfl
@[simp] theorem Engine.drive_EN (e : Engine) (b : Bool) (n : Nibble) : (e.drive b n).EN = e.EN := rfl

@[simp] theorem Engine.raiseEnable_q (e : Engine) (p : Params) : (e.raiseEnable p).q = e.q := rfl
@[simp] theorem Engine.raiseEnable_state (e : Engine) (p : Params) : (e.raiseEnable p).state = e.state := rfl
@[simp] theorem Engine.raiseEnable_active (e : Engine) (p : Params) : (e.raiseEnable p).active = e.active := rfl
@[simp] theorem Engine.raiseEnable_run (e : Engine) (p : Params) : (e.raiseEnable p).run = e.run := rfl
@[simp] theorem Engine.raiseEnable_tArmed (e : Engine) (p : Params) : (e.raiseEnable p).tArmed = e.tArmed := rfl
@[simp] theorem Engine.raiseEnable_tRem (e : Engine) (p : Params) : (e.raiseEnable p).tRem = e.tRem := rfl
@[simp] theorem Engine.raiseEnable_pPhase (e : Engine) (p : Params) : (e.raiseEnable p).pPhase = .high := rfl
@[simp] theorem Engine.raiseEnable_pRem (e : Engine) (p : Params) : (e.raiseEnable p).pRem = p.pulseTicks := rfl
@[simp] theorem Engine.raiseEnable_D (e : Engine) (p : Params) : (e.raiseEnable p).D = e.D := rfl
@[simp] theorem Engine.raiseEnable_RS (e : Engine) (p : Params) : (e.raiseEnable p).RS = e.RS := rfl
@[simp] theorem Engine.raiseEnable_EN (e : Engine) (p : Params) : (e.raiseEnable p).EN = true := rfl

@[simp] theorem Engine.resetState_q (e : Engine) : (e.resetState).q = [] := rfl
@[simp] theorem Engine.resetState_state (e : Engine) : (e.resetState).state = .idle := rfl
@[simp] theorem Engine.resetState_active (e : Engine) : (e.resetState).active = e.active := rfl
@[simp] theorem Engine.resetState_run (e : Engine) : (e.resetState).run = false := rfl
@[simp] theorem Engine.resetState_tArmed (e : Engine) : (e.resetState).tArmed = false := rfl
@[simp] theorem Engine.resetState_tRem (e : Engine) : (e.resetState).tRem = 0 := rfl
@[simp] theorem Engine.resetState_pPhase (e : Engine) : (e.resetState).pPhase = .idle := rfl
@[simp] theorem Engine.resetState_pRem (e : Engine) : (e.resetState).pRem = 0 := rfl
@[simp] theorem Engine.resetState_D (e : Engine) : (e.resetState).D = 0 := rfl
@[simp] theorem Engine.resetState_RS (e : Engine) : (e.resetState).RS = false := rfl
@[simp] theorem Engine.resetState_EN (e : Engine) : (e.resetState).EN = false := rfl

@[simp] theorem State.ticked_eng (s : State) (e : Engine) : (s.ticked e).eng = e := rfl
@[simp] theorem State.ticked_prod (s : State) (e : Engine) : (s.ticked e).prod = s.prod := rfl
@[simp] theorem State.ticked_cfg (s : State) (e : Engine) : (s.ticked e).cfg = s.cfg := rfl
@[simp] theorem State.ticked_now (s : State) (e : Engine) : (s.ticked e).now = s.now + 1 := rfl
@[simp] theorem State.ticked_events (s : State) (e : Engine) : (s.ticked e).events = s.events ++ latchOf (s.now + 1) s.eng e := rfl

@[simp] theorem State.clock_eng (s : State) (i : In) : (s.clock i).eng = s.eng.tick s.cfg i := rfl
@[simp] theorem State.clock_prod (s : State) (i : In) : (s.clock i).prod = s.prod := rfl
@[simp] theorem State.clock_cfg (s : State) (i : In) : (s.clock i).cfg = s.cfg := rfl
@[simp] theorem State.clock_now (s : State) (i : In) : (s.clock i).now = s.now + 1 := rfl
@[simp] theorem State.clock_events (s : State) (i : In) : (s.clock i).events = s.events ++ latchOf (s.now + 1) s.eng (s.eng.tick s.cfg i) := rfl

@[simp] theorem State.wordTick_eng (s : State) (f : WordFields) : (s.wordTick f).eng = s.eng.tickWord s.cfg f In.trigger := rfl
@[simp] theorem State.wordTick_prod (s : State) (f : WordFields) : (s.wordTick f).prod = s.prod := rfl
@[simp] theorem State.wordTick_cfg (s : State) (f : WordFields) : (s.wordTick f).cfg = s.cfg := rfl
@[simp] theorem State.wordTick_now (s : State) (f : WordFields) : (s.wordTick f).now = s.now + 1 := rfl
@[simp] theorem State.wordTick_events (s : State) (f : WordFields) : (s.wordTick f).events = s.events ++ latchOf (s.now + 1) s.eng (s.eng.tickWord s.cfg f In.trigger) := rfl

@[simp] theorem State.withProgram_eng (s : State) (l : List Line) : (s.withProgram l).eng = s.eng := rfl
@[simp] theorem State.withProgram_prod (s : State) (l : List Line) : (s.withProgram l).prod = { s.prod with program := l } := rfl
@[simp] theorem State.withProgram_cfg (s : State) (l : List Line) : (s.withProgram l).cfg = s.cfg := rfl
@[simp] theorem State.withProgram_now (s : State) (l : List Line) : (s.withProgram l).now = s.now := rfl
@[simp] theorem State.withProgram_events (s : State) (l : List Line) : (s.withProgram l).events = s.events := rfl

@[simp] theorem State.settled_eng (s : State) : s.settled.eng = s.eng := rfl
@[simp] theorem State.settled_cfg (s : State) : s.settled.cfg = s.cfg := rfl
@[simp] theorem State.settled_now (s : State) : s.settled.now = s.now := rfl
@[simp] theorem State.settled_events (s : State) : s.settled.events = s.events := rfl

end Sys2Proof.Machine
end

