-- ==== Sys2Proof/Laws/Ops.lean ====
section
/-! SUPPORT. What each shared operation does, said once: the fields each part of the tick leaves alone, and each
field of the next state as a function of the old one. Later proofs cite these and unfold no part. -/

namespace Sys2Proof.Machine

/-! ### Status outputs and signals, as propositions -/

theorem Engine.pushReady_iff {e : Engine} : e.pushReady = true ↔ e.q.length < 10 := by
  unfold Engine.pushReady; exact decide_eq_true_iff

theorem Engine.pushReady_false_iff {e : Engine} : e.pushReady = false ↔ 10 ≤ e.q.length := by
  unfold Engine.pushReady; rw [decide_eq_false_iff_not]; exact Nat.not_lt

theorem Engine.dirReady_iff {e : Engine} : e.dirReady = true ↔ e.run = false ∧ e.pPhase = .idle := by
  simp [Engine.dirReady]

theorem Engine.fire_iff {e : Engine} : e.fire = true ↔ e.tArmed = true ∧ e.tRem.toNat ≤ 1 := by
  simp [Engine.fire]

theorem Engine.pulseDone_iff {e : Engine} : e.pulseDone = true ↔ e.pPhase = .high ∧ e.pRem ≤ 1 := by
  simp [Engine.pulseDone]

/-! ### The parts of the tick -/

/-- The sequencer writes EN, its phase and its counter only. -/
theorem Engine.pulseStep_frame (s : Engine) (p : Params) :
    s.pulseStep p = { s with EN := (s.pulseStep p).EN, pPhase := (s.pulseStep p).pPhase,
                             pRem := (s.pulseStep p).pRem } := by
  unfold Engine.pulseStep Engine.raiseEnable
  split <;> (try split) <;> rfl

/-- The timer's next values (R128): it writes nothing else. -/
theorem Engine.timerStep_eq (s : Engine) :
    s.timerStep = { s with
      tArmed := s.tArmed && !s.fire
      tRem := if s.tArmed then (if s.fire then 0 else s.tRem - 1) else s.tRem } := by
  rcases s with ⟨q, st, ac, ru, ta, tr, pp, pr, d, rs, en⟩
  cases ta
  · simp [Engine.timerStep, Engine.fire]
  · by_cases h : tr.toNat ≤ 1 <;> simp [Engine.timerStep, Engine.fire, h]

/-- An idle sequencer does nothing. -/
theorem Engine.pulseStep_idle {s : Engine} {p : Params} (h : s.pPhase = .idle) : s.pulseStep p = s := by
  simp [Engine.pulseStep, h]

/-- An unarmed timer does nothing. -/
theorem Engine.timerStep_off {s : Engine} (h : s.tArmed = false) : s.timerStep = s := by
  simp [Engine.timerStep, h]

/-- An unarmed timer does not fire. -/
theorem Engine.fire_off {s : Engine} (h : s.tArmed = false) : s.fire = false := by simp [Engine.fire, h]

/-- A sequencer that is not in its high phase does not finish a pulse. -/
theorem Engine.pulseDone_idle {s : Engine} (h : s.pPhase ≠ .high) : s.pulseDone = false := by
  simp [Engine.pulseDone, h]

/-- `start_pulse()` writes EN, the sequencer's phase and its counter only (R97). -/
theorem Engine.startPulse_frame (n : Engine) (p : Params) :
    n.startPulse p = { n with EN := (n.startPulse p).EN, pPhase := (n.startPulse p).pPhase,
                              pRem := (n.startPulse p).pRem } := by
  unfold Engine.startPulse Engine.raiseEnable
  split <;> rfl

@[simp] theorem Engine.startPulse_q (n : Engine) (p : Params) : (n.startPulse p).q = n.q := by
  rw [n.startPulse_frame p]
@[simp] theorem Engine.startPulse_state (n : Engine) (p : Params) : (n.startPulse p).state = n.state := by
  rw [n.startPulse_frame p]
@[simp] theorem Engine.startPulse_active (n : Engine) (p : Params) : (n.startPulse p).active = n.active := by
  rw [n.startPulse_frame p]
@[simp] theorem Engine.startPulse_run (n : Engine) (p : Params) : (n.startPulse p).run = n.run := by
  rw [n.startPulse_frame p]

@[simp] theorem Engine.pulseStep_q (s : Engine) (p : Params) : (s.pulseStep p).q = s.q := by
  rw [s.pulseStep_frame p]
@[simp] theorem Engine.pulseStep_active (s : Engine) (p : Params) : (s.pulseStep p).active = s.active := by
  rw [s.pulseStep_frame p]
@[simp] theorem Engine.pulseStep_run (s : Engine) (p : Params) : (s.pulseStep p).run = s.run := by
  rw [s.pulseStep_frame p]
@[simp] theorem Engine.pulseStep_state (s : Engine) (p : Params) : (s.pulseStep p).state = s.state := by
  rw [s.pulseStep_frame p]

@[simp] theorem Engine.timerStep_q (s : Engine) : s.timerStep.q = s.q := by rw [s.timerStep_eq]
@[simp] theorem Engine.timerStep_active (s : Engine) : s.timerStep.active = s.active := by rw [s.timerStep_eq]
@[simp] theorem Engine.timerStep_run (s : Engine) : s.timerStep.run = s.run := by rw [s.timerStep_eq]
@[simp] theorem Engine.timerStep_state (s : Engine) : s.timerStep.state = s.state := by rw [s.timerStep_eq]

/-- The transmit part leaves the queue, `active` and the mode alone (R133 to R137). -/
theorem Engine.transmit_keeps (s n : Engine) (p : Params) (f : WordFields) :
    (s.transmit n p f).q = n.q ∧ (s.transmit n p f).active = n.active ∧ (s.transmit n p f).run = n.run := by
  unfold Engine.transmit
  split <;> (try split) <;> (try split) <;> simp

@[simp] theorem Engine.transmit_q (s n : Engine) (p : Params) (f : WordFields) :
    (s.transmit n p f).q = n.q := (s.transmit_keeps n p f).1
@[simp] theorem Engine.transmit_active (s n : Engine) (p : Params) (f : WordFields) :
    (s.transmit n p f).active = n.active := (s.transmit_keeps n p f).2.1
@[simp] theorem Engine.transmit_run (s n : Engine) (p : Params) (f : WordFields) :
    (s.transmit n p f).run = n.run := (s.transmit_keeps n p f).2.2

/-- The pop (R113): the head leaves the queue for `active`; nothing else changes. -/
theorem Engine.dequeue_eq (n : Engine) :
    n.dequeue = { n with q := n.q.drop 1, active := n.q.headD n.active } := by
  rcases n with ⟨q, st, ac, ru, ta, tr, pp, pr, d, rs, en⟩
  cases q <;> rfl

/-- The advance operation (R131), with a word in the queue and without. -/
theorem Engine.advanceOp_cons {n : Engine} {p : Params} {w : Word} {rest : List Word} (h : n.q = w :: rest) :
    n.advanceOp p = { n with q := rest, active := w, state := .sendingHigh, tArmed := true,
                             tRem := p.minTicks } := by
  simp [Engine.advanceOp, Engine.dequeue, h, Engine.arm]

theorem Engine.advanceOp_nil {n : Engine} {p : Params} (h : n.q = []) :
    n.advanceOp p = { n with state := .idle } := by
  simp [Engine.advanceOp, h]

/-- The direct part leaves the queue, `active`, the phase and the timer alone (R91, R95, R139). -/
theorem Engine.directStep_keeps (s n : Engine) (p : Params) (inp : In) :
    (s.directStep n p inp).q = n.q ∧ (s.directStep n p inp).active = n.active
    ∧ (s.directStep n p inp).state = n.state ∧ (s.directStep n p inp).tArmed = n.tArmed
    ∧ (s.directStep n p inp).tRem = n.tRem := by
  unfold Engine.directStep Engine.pinWrite Engine.raiseEnable
  repeat' split
  all_goals simp

@[simp] theorem Engine.directStep_q (s n : Engine) (p : Params) (inp : In) :
    (s.directStep n p inp).q = n.q := (s.directStep_keeps n p inp).1
@[simp] theorem Engine.directStep_active (s n : Engine) (p : Params) (inp : In) :
    (s.directStep n p inp).active = n.active := (s.directStep_keeps n p inp).2.1
@[simp] theorem Engine.directStep_state (s n : Engine) (p : Params) (inp : In) :
    (s.directStep n p inp).state = n.state := (s.directStep_keeps n p inp).2.2.1
@[simp] theorem Engine.directStep_tArmed (s n : Engine) (p : Params) (inp : In) :
    (s.directStep n p inp).tArmed = n.tArmed := (s.directStep_keeps n p inp).2.2.2.1
@[simp] theorem Engine.directStep_tRem (s n : Engine) (p : Params) (inp : In) :
    (s.directStep n p inp).tRem = n.tRem := (s.directStep_keeps n p inp).2.2.2.2

/-- A closed direct port does nothing (R91, R95, R139). -/
theorem Engine.directStep_closed {s : Engine} (n : Engine) (p : Params) (inp : In)
    (h : s.dirReady = false) : s.directStep n p inp = n := by
  simp [Engine.directStep, h]

/-- In run mode the direct port is closed (R28). -/
theorem Engine.dirReady_run {s : Engine} (h : s.run = true) : s.dirReady = false := by
  simp [Engine.dirReady, h]

/-- The push writes the queue only (R111). -/
theorem Engine.pushStep_eq (s n : Engine) (inp : In) :
    s.pushStep n inp = { n with q := n.q ++ (if inp.pushValid && s.pushReady then [inp.pushWord] else []) } := by
  unfold Engine.pushStep
  split <;> simp

@[simp] theorem Engine.pushStep_active (s n : Engine) (i : In) : (s.pushStep n i).active = n.active := by
  rw [Engine.pushStep_eq]
@[simp] theorem Engine.pushStep_state (s n : Engine) (i : In) : (s.pushStep n i).state = n.state := by
  rw [Engine.pushStep_eq]
@[simp] theorem Engine.pushStep_run (s n : Engine) (i : In) : (s.pushStep n i).run = n.run := by
  rw [Engine.pushStep_eq]
@[simp] theorem Engine.pushStep_tArmed (s n : Engine) (i : In) : (s.pushStep n i).tArmed = n.tArmed := by
  rw [Engine.pushStep_eq]
@[simp] theorem Engine.pushStep_tRem (s n : Engine) (i : In) : (s.pushStep n i).tRem = n.tRem := by
  rw [Engine.pushStep_eq]
@[simp] theorem Engine.pushStep_pPhase (s n : Engine) (i : In) : (s.pushStep n i).pPhase = n.pPhase := by
  rw [Engine.pushStep_eq]
@[simp] theorem Engine.pushStep_pRem (s n : Engine) (i : In) : (s.pushStep n i).pRem = n.pRem := by
  rw [Engine.pushStep_eq]
@[simp] theorem Engine.pushStep_D (s n : Engine) (i : In) : (s.pushStep n i).D = n.D := by
  rw [Engine.pushStep_eq]
@[simp] theorem Engine.pushStep_RS (s n : Engine) (i : In) : (s.pushStep n i).RS = n.RS := by
  rw [Engine.pushStep_eq]
@[simp] theorem Engine.pushStep_EN (s n : Engine) (i : In) : (s.pushStep n i).EN = n.EN := by
  rw [Engine.pushStep_eq]

/-- Reset dominates (R212). -/
theorem Engine.tickWord_rst {s : Engine} {p : Params} {f : WordFields} {inp : In} (h : inp.rst = true) :
    s.tickWord p f inp = s.resetState := by
  simp [Engine.tickWord, h]

theorem Engine.tickWord_live {s : Engine} {p : Params} {f : WordFields} {inp : In} (h : inp.rst = false) :
    s.tickWord p f inp
      = s.pushStep (s.directStep (s.machineStep p f inp.advance) p inp) inp := by
  simp [Engine.tickWord, h]

/-! ### The tick, field by field -/

theorem Engine.machineStep_q (s : Engine) (p : Params) (f : WordFields) (adv : Bool) :
    (s.machineStep p f adv).q = if s.wantAdvance adv then s.q.drop 1 else s.q := by
  unfold Engine.machineStep
  split
  · cases hq : s.q with
    | nil => rw [Engine.advanceOp_nil (by simp [hq])]; simp [hq]
    | cons w r => rw [Engine.advanceOp_cons (w := w) (rest := r) (by simp [hq])]; simp
  · simp

theorem Engine.machineStep_active (s : Engine) (p : Params) (f : WordFields) (adv : Bool) :
    (s.machineStep p f adv).active = if s.wantAdvance adv then s.q.headD s.active else s.active := by
  unfold Engine.machineStep
  split
  · cases hq : s.q with
    | nil => rw [Engine.advanceOp_nil (by simp [hq])]; simp
    | cons w r => rw [Engine.advanceOp_cons (w := w) (rest := r) (by simp [hq])]; simp
  · simp

theorem Engine.machineStep_run (s : Engine) (p : Params) (f : WordFields) (adv : Bool) :
    (s.machineStep p f adv).run = s.run := by
  unfold Engine.machineStep
  split
  · cases hq : s.q with
    | nil => rw [Engine.advanceOp_nil (by simp [hq])]; simp
    | cons w r => rw [Engine.advanceOp_cons (w := w) (rest := r) (by simp [hq])]; simp
  · simp

/-- The queue after a tick (R111, R113, R115). -/
theorem Engine.tickWord_q {s : Engine} {p : Params} {f : WordFields} {inp : In} (h : inp.rst = false) :
    (s.tickWord p f inp).q
      = queueNext s.q (s.wantAdvance inp.advance) (if inp.pushValid then some inp.pushWord else none) := by
  rw [Engine.tickWord_live h, Engine.pushStep_eq]
  simp only [Engine.directStep_q, Engine.machineStep_q, queueNext, Engine.pushReady]
  congr 1
  cases inp.pushValid <;> simp

/-- `active` is written only by the dequeue, all its bits at once (R22, R131). -/
theorem Engine.tickWord_active {s : Engine} {p : Params} {f : WordFields} {inp : In} (h : inp.rst = false) :
    (s.tickWord p f inp).active
      = if s.wantAdvance inp.advance then s.q.headD s.active else s.active := by
  rw [Engine.tickWord_live h, Engine.pushStep_active, Engine.directStep_active, Engine.machineStep_active]

/-- `run` is set by an accepted `set_run` and cleared only by reset (R28, R139). -/
theorem Engine.tickWord_run {s : Engine} {p : Params} {f : WordFields} {inp : In} (h : inp.rst = false) :
    (s.tickWord p f inp).run = (s.run || (s.dirReady && !inp.dirPulse && inp.setRun)) := by
  rw [Engine.tickWord_live h, Engine.pushStep_run]
  have hm := s.machineStep_run p f inp.advance
  generalize s.machineStep p f inp.advance = n at hm
  unfold Engine.directStep Engine.pinWrite
  cases hd : s.dirReady <;> cases hp : inp.dirPulse <;> cases hs : inp.setRun <;> cases inp.dirSet <;>
    simp [hm] <;> (repeat' split) <;> simp [hm]

/-- In run mode a tick is the machine's part and the push. -/
theorem Engine.tickWord_runMode {s : Engine} {p : Params} {f : WordFields} {inp : In} (h : inp.rst = false)
    (hr : s.run = true) : s.tickWord p f inp = s.pushStep (s.machineStep p f inp.advance) inp := by
  rw [Engine.tickWord_live h, Engine.directStep_closed _ _ _ (Engine.dirReady_run hr)]

/-- Outside Idle the trigger is lost (R130) or merges with the expiry (R137). -/
theorem Engine.wantAdvance_busy {s : Engine} (a b : Bool) (h : s.state ≠ .idle) :
    s.wantAdvance a = s.wantAdvance b := by
  unfold Engine.wantAdvance
  cases hs : s.state <;> simp_all

end Sys2Proof.Machine
end

