-- ==== Sys2Proof/Laws/PerInstr.lean ====
section
/-! SUPPORT. One statement for each instruction: the encoder puts an instruction word's fields where R70 has them,
and encodes nothing else as a word. -/

namespace Sys2Proof.Laws.Encodes

/-- An instruction to which `wordOf` gives fields is encoded as the word with these fields; any other is no
instruction word. -/
def Statement (i : Instr) : Prop :=
  (∀ f, wordOf i = some f → encode i = some (.iw (packWord f.isData f.delay f.opcode)))
  ∧ (wordOf i = none → ∀ w, encode i ≠ some (.iw w))

theorem cmd (o : Byte) (d : Delay) : Statement (.cmd o d) := by simp [Statement, wordOf, encode]
theorem dataWrite (o : Byte) (d : Delay) : Statement (.dataWrite o d) := by simp [Statement, wordOf, encode]
theorem functionSet (d : Delay) : Statement (.functionSet d) := by simp [Statement, wordOf, encode]
theorem displayOff (d : Delay) : Statement (.displayOff d) := by simp [Statement, wordOf, encode]
theorem clearDisplay (d : Delay) : Statement (.clearDisplay d) := by simp [Statement, wordOf, encode]
theorem entryModeSet (d : Delay) : Statement (.entryModeSet d) := by simp [Statement, wordOf, encode]
theorem displayOn (d : Delay) : Statement (.displayOn d) := by simp [Statement, wordOf, encode]
theorem cursorSet (a : Addr) (d : Delay) : Statement (.cursorSet a d) := by simp [Statement, wordOf, encode]
theorem dataWriteWriter (c : Byte) : Statement (.dataWriteWriter c) := by simp [Statement, wordOf, encode]
theorem setLevel (g : BitVec 3) (b : Bool) : Statement (.setLevel g b) := by simp [Statement, wordOf, encode]
theorem pulseEnable : Statement .pulseEnable := by simp [Statement, wordOf, encode]
theorem setLevelPulse (g : BitVec 3) (b : Bool) : Statement (.setLevelPulse g b) := by simp [Statement, wordOf, encode]
theorem sendNibble (n : Nibble) : Statement (.sendNibble n) := by simp [Statement, wordOf, encode]
theorem sendNibble3 : Statement .sendNibble3 := by simp [Statement, wordOf, encode]
theorem sendNibble2 : Statement .sendNibble2 := by simp [Statement, wordOf, encode]
theorem push (w : Word) : Statement (.push w) := by simp [Statement, wordOf, encode]
theorem pop : Statement .pop := by simp [Statement, wordOf, encode]
theorem advance : Statement .advance := by simp [Statement, wordOf, encode]
theorem setRun : Statement .setRun := by simp [Statement, wordOf, encode]
theorem reset : Statement .reset := by simp [Statement, wordOf, encode]
theorem writeCharTilde : Statement .writeCharTilde := by simp [Statement, wordOf, encode]
theorem writeCharBackspace : Statement .writeCharBackspace := by simp [Statement, wordOf, encode]
theorem writeCharOther (c : Byte) : Statement (.writeCharOther c) := by simp [Statement, wordOf, encode]
theorem initCall : Statement .initCall := by simp [Statement, wordOf, encode]

end Sys2Proof.Laws.Encodes
end

