-- ==== Sys2Proof/Laws/Queue.lean ====
section
/-! SUPPORT. The FIFO keeps its form: every operation on it keeps at most ten words (R21, R41 g). This hardware has
no other memory (R50). -/

namespace Sys2Proof.Machine

theorem queueNext_wf {q : List Word} (pop : Bool) (push : Option Word) (h : queueWf q) :
    queueWf (queueNext q pop push) := by
  unfold queueWf queueNext Config.queueDepth at *
  cases pop <;> cases push <;> simp
  all_goals first | omega | (split <;> simp <;> omega)

theorem dequeue_wf {n : Engine} (h : queueWf n.q) : queueWf n.dequeue.q := by
  rw [n.dequeue_eq]; simp only [queueWf, List.length_drop] at *; omega

theorem tickWord_queueWf {s : Engine} {p : Params} {f : WordFields} {inp : In} (h : queueWf s.q) :
    queueWf (s.tickWord p f inp).q := by
  cases hr : inp.rst
  · rw [Engine.tickWord_q hr]; exact queueNext_wf _ _ h
  · rw [Engine.tickWord_rst hr]; simp [queueWf]

theorem reset_queueWf : queueWf State.reset.eng.q := by decide

/-- A pop of an empty queue gives nothing and changes nothing (R113). -/
theorem queueNext_empty (push : Option Word) (pop : Bool) :
    queueNext [] pop push = (match push with | some w => [w] | none => []) := by
  cases pop <;> cases push <;> simp [queueNext, Config.queueDepth]

/-- A push into a full queue is not accepted, even beside a pop (R115). -/
theorem queueNext_full {q : List Word} (w : Word) (h : q.length = Config.queueDepth) :
    queueNext q true (some w) = q.drop 1 := by
  simp [queueNext, h]

end Sys2Proof.Machine
end

