-- ==== Sys2Proof/Laws/Step.lean ====
section
/-! SUPPORT. What the meanings do in terms of the tick, said once: an instruction word is one tick with its
fields, an accepted direct request is the direct part alone, lines that take no tick keep what holds of the
program, and runs of `core` are steps joined. -/

namespace Sys2Proof.Machine

/-- An instruction of format IW is one tick of the word with its fields. -/
theorem exec_wordOf {i : Instr} {f : WordFields} (s : State) (h : wordOf i = some f) :
    exec i s = .next (s.wordTick f) := by
  cases i <;> simp only [wordOf, Option.some.injEq, reduceCtorEq] at h <;> subst h <;> rfl

/-- With the direct port open the machine is at rest: Idle, timer off, no pulse (R41 a). -/
theorem Engine.open_shape {e : Engine} (h : e.Inv) (hd : e.dirReady = true) :
    e = { e with state := .idle, run := false, tArmed := false, tRem := 0, pPhase := .idle, pRem := 0 } := by
  obtain ⟨-, ha, -, -, -, -, h26, h27, -⟩ := h
  obtain ⟨q, st, ac, ru, ta, tr, pp, pr, d, rs, en⟩ := e
  simp only [Engine.dirReady, Bool.and_eq_true, Bool.not_eq_true', decide_eq_true_eq] at hd
  obtain ⟨rfl, rfl⟩ := hd
  obtain ⟨rfl, rfl⟩ := ha rfl
  obtain rfl := h26 rfl
  obtain rfl := h27 rfl
  rfl

/-- With the direct port open a tick is the direct part and the push. -/
theorem Engine.tick_open {e : Engine} (p : Params) (inp : In) (h : e.Inv) (hd : e.dirReady = true)
    (hr : inp.rst = false) : e.tick p inp = e.pushStep (e.directStep e p inp) inp := by
  rw [e.open_shape h hd]
  simp [Engine.tick, Engine.tickWord, hr, Engine.machineStep, Engine.wantAdvance, Engine.transmit,
    Engine.pulseStep, Engine.timerStep]

/-- Writing data line k changes bit k alone (R53, R56). -/
theorem setDataLine_bit : ∀ (d : Nibble) (g : BitVec 3) (b : Bool) (k : Fin 4), g.toNat ≤ 3 →
    (setDataLine d g.toNat b).getLsbD k = if k = g.toNat then b else d.getLsbD k := by decide

/-- What holds of every line of a program holds of every line left when the lines without a tick are taken. -/
theorem settleLines_forall {b : Bool} {lines : List Line} {c : Addr} (P : Line → Prop)
    (h : ∀ l ∈ lines, P l) : ∀ l ∈ (settleLines b lines c).1, P l := by
  fun_induction settleLines b lines c with
  | case1 _ _ ih => exact ih fun l hl => h l (List.mem_cons_of_mem _ hl)
  | case2 _ _ _ ih => exact ih fun l hl => h l (List.mem_cons_of_mem _ hl)
  | case3 => exact h
  | case4 _ _ _ ih => exact ih fun l hl => h l (List.mem_cons_of_mem _ hl)
  | case5 => exact h

/-- No step leaves the state. -/
theorem run_zero (s : State) : Host.Core.run core 0 s = .next s := rfl

/-- A run whose first step answers `t` goes on from `t`. -/
theorem run_succ {s t : State} (h : step s = .next t) (k : Nat) :
    Host.Core.run core (k + 1) s = Host.Core.run core k t := by
  have hc : core.step s = .next t := h
  simp only [Host.Core.run, hc]

/-- Runs join: after `a` steps to `t`, `b` more are a run from `t`. -/
theorem run_add {s t : State} {a : Nat} (h : Host.Core.run core a s = .next t) (b : Nat) :
    Host.Core.run core (a + b) s = Host.Core.run core b t := by
  induction a generalizing s with
  | zero => injection h with h; subst h; simp
  | succ a ih =>
    rw [Nat.succ_add]
    cases hs : step s with
    | next u => rw [run_succ hs] at h ⊢; exact ih h
    | fault r => exact nomatch r
    | refused r =>
      have hc : core.step s = .refused r := hs
      simp [Host.Core.run, hc] at h

end Sys2Proof.Machine
end

