-- ==== Sys2Proof/Tests/Slice0.lean ====
section
/-! SUPPORT. Tests: the checks of WellFormed, words written out from the spec's encodings, single steps against the
vectors of spec/95_test_vectors.md, and for each statement with hypotheses a state that meets them. -/

namespace Sys2Proof.Tests
open Sys2Proof.Machine

/-! ### Small states -/

/-- The next state of an outcome. -/
def nextOf : Host.Outcome State Fault Refusal → Option State
  | .next t    => some t
  | .fault _   => none
  | .refused _ => none

/-- The engine after an outcome, or the reset engine. -/
def engOf (o : Host.Outcome State Fault Refusal) : Engine := ((nextOf o).map (·.eng)).getD Engine.init

/-- Reset but for the engine, the cursor and the program. -/
def st (e : Engine) (cursor : Addr := 0x00) (lines : List Line := []) : State :=
  { State.reset with eng := e, prod := ⟨cursor, lines⟩ }

/-- "run-idle": the reset state with `run = 1`. -/
def runIdle : Engine := { Engine.init with run := true }

/-- The word in SendingHigh with the minimal timer about to expire (row n+1 of R140). -/
def hiFire (w : Word) : Engine := { runIdle with active := w, state := .sendingHigh, tArmed := true, tRem := 1 }
/-- The same in SendingLow (row n+4). -/
def loFire (w : Word) : Engine := { hiFire w with state := .sendingLow }
/-- EN asserted for the high nibble, about to fall (row n+3). -/
def hiPulse (w : Word) : Engine :=
  { runIdle with active := w, state := .sendingHigh, pPhase := .high, pRem := 1, EN := true
                 RS := (fieldsOf w).isData, D := (fieldsOf w).hi }
/-- The same for the low nibble (row n+6). -/
def loPulse (w : Word) : Engine :=
  { hiPulse w with state := .sendingLow, D := (fieldsOf w).lo }
/-- Executing, about to expire (row n+6+d), with a queue. -/
def lastTick (w : Word) (q : List Word) : Engine :=
  { runIdle with active := w, state := .executing, tArmed := true, tRem := 1, q := q }
/-- Ten words. -/
def tenWords : List Word := [0, 1, 2, 3, 4, 5, 6, 7, 8, 9]
/-- A pulse in progress in direct mode. -/
def directPulse : Engine := { Engine.init with EN := true, pPhase := .high, pRem := 1 }

/-! ### WellFormed refuses each ill-formed spelling -/

theorem test_wf_named_opcodes :
    WellFormed (.cmd 0x28 39) = false ∧ WellFormed (.cmd 0x08 0) = false ∧ WellFormed (.cmd 0x01 0) = false
    ∧ WellFormed (.cmd 0x06 0) = false ∧ WellFormed (.cmd 0x0C 0) = false
    ∧ WellFormed (.cmd 0x80 0) = false ∧ WellFormed (.cmd 0x07 39) = true := by decide
theorem test_wf_writer_delay :
    WellFormed (.dataWrite 0x41 43) = false ∧ WellFormed (.dataWrite 0x41 44) = true := by decide
theorem test_wf_bootstrap_nibbles :
    WellFormed (.sendNibble 3) = false ∧ WellFormed (.sendNibble 2) = false
    ∧ WellFormed (.sendNibble 4) = true := by decide
theorem test_wf_special_characters :
    WellFormed (.writeCharOther 0x7E) = false ∧ WellFormed (.writeCharOther 0x08) = false
    ∧ WellFormed (.writeCharOther 0x7F) = true := by decide

/-! ### Decoding, from the bits of the spec's encodings (R70, R79, R80, R85, V-E-1 to V-E-4) -/

theorem test_decode_cmd : decode (.iw 0b0_0000000000000000_01011010) = .ok (.cmd 0x5A 0) := by rfl
theorem test_decode_cmd_zero : decode (.iw 0) = .ok (.cmd 0x00 0) := by rfl
theorem test_decode_dataWrite :
    decode (.iw 0b1_0000000000100111_00101000) = .ok (.dataWrite 0x28 39) := by rfl
theorem test_decode_functionSet :
    decode (.iw 0b0_0000000001100100_00101000) = .ok (.functionSet 100) := by rfl
theorem test_decode_displayOff :
    decode (.iw 0b0_0000000000100111_00001000) = .ok (.displayOff 39) := by rfl
theorem test_decode_clearDisplay :
    decode (.iw 0b0_0000010111111010_00000001) = .ok (.clearDisplay 1530) := by rfl
theorem test_decode_entryModeSet :
    decode (.iw 0b0_0000000000100111_00000110) = .ok (.entryModeSet 39) := by rfl
theorem test_decode_displayOn :
    decode (.iw 0b0_0000000000100111_00001100) = .ok (.displayOn 39) := by rfl
theorem test_decode_cursorSet :
    decode (.iw 0b0_0000000000100111_11111111) = .ok (.cursorSet 0x7F 39) := by rfl
theorem test_decode_dataWriteWriter :
    decode (.iw 0b1_0000000000101011_01000001) = .ok (.dataWriteWriter 0x41) := by rfl
theorem test_decode_setLevel : decode (.host (.dp 0b0_1_110_1)) = .ok (.setLevel 6 true) := by rfl
theorem test_decode_pulseEnable : decode (.host (.dp 0b1_0_101_1)) = .ok .pulseEnable := by rfl
theorem test_decode_setLevelPulse : decode (.host (.dp 0b1_1_001_1)) = .ok (.setLevelPulse 1 true) := by rfl
theorem test_decode_noRequest : decode (.host (.dp 0b0_0_101_1)) = .error .noRequest := by rfl
theorem test_decode_sendNibble : decode (.host (.nib 0b0_1101)) = .ok (.sendNibble 0xD) := by rfl
theorem test_decode_sendNibble3 : decode (.host (.nib 0b0_0011)) = .ok .sendNibble3 := by rfl
theorem test_decode_sendNibble2 : decode (.host (.nib 0b0_0010)) = .ok .sendNibble2 := by rfl
theorem test_decode_nibSelectsData : decode (.host (.nib 0b1_0011)) = .error .nibSelectsData := by rfl
theorem test_decode_ports :
    decode (.host (.push 0x0002728)) = .ok (.push 0x0002728) ∧ decode (.host .advance) = .ok .advance
    ∧ decode (.host .setRun) = .ok .setRun ∧ decode (.host .reset) = .ok .reset
    ∧ decode (.host .initCall) = .ok .initCall := ⟨rfl, rfl, rfl, rfl, rfl⟩
theorem test_decode_characters :
    decode (.host (.char 0b01111110)) = .ok .writeCharTilde
    ∧ decode (.host (.char 0b00001000)) = .ok .writeCharBackspace
    ∧ decode (.host (.char 0b01000001)) = .ok (.writeCharOther 0x41) := ⟨rfl, rfl, rfl⟩

theorem test_table_words :
    decodeTableWord 32 0x005FA01 = some (.clearDisplay 1530) ∧ decodeTableWord 25 0x1002B41 = some (.dataWriteWriter 0x41)
    ∧ decodeTableWord 6 0b011010 = some (.setLevel 5 false) ∧ decodeTableWord 5 0b00011 = some .sendNibble3
    ∧ decodeTableWord 8 0x7E = some .writeCharTilde ∧ decodeTableWord 8 0b100000 = some .pulseEnable
    ∧ decodeTableWord 8 0x41 = some (.writeCharOther 0x41) := by decide

/-! ### Instruction words, one step each (V-F-1 to V-F-12) -/

theorem test_cmd_high : engOf (exec (.cmd 0x5A 0) (st (hiFire 0x000005A)))
    = { runIdle with active := 0x000005A, state := .sendingHigh, D := 0x5, pPhase := .setup, pRem := 1 } := by decide
theorem test_cmd_delay_zero : engOf (exec (.cmd 0x5A 0) (st (loPulse 0x000005A)))
    = { runIdle with active := 0x000005A, state := .executing, D := 0xA, tArmed := true, tRem := 1 } := by decide
theorem test_dataWrite_low : engOf (exec (.dataWrite 0xFF 65535) (st (loFire 0x1FFFFFF)))
    = { runIdle with active := 0x1FFFFFF, state := .sendingLow, RS := true, D := 0xF, pPhase := .setup, pRem := 1 } := by
  decide
theorem test_dataWrite_longest : (engOf (exec (.dataWrite 0xFF 65535) (st (loPulse 0x1FFFFFF)))).tRem = 65535 := by decide
theorem test_functionSet_high : (engOf (exec (.functionSet 39) (st (hiFire 0x0002728)))).D = 0x2 := by decide
theorem test_functionSet_latch : (nextOf (exec (.functionSet 39) (st (hiPulse 0x0002728)))).map (·.events)
    = some [⟨1, false, 0x2⟩] := by decide
theorem test_displayOff_low : (engOf (exec (.displayOff 39) (st (loFire 0x0002708)))).D = 0x8 := by decide
theorem test_clearDisplay_delay : (engOf (exec (.clearDisplay 1530) (st (loPulse 0x005FA01)))).tRem = 1530 := by decide
theorem test_entryModeSet_low : (engOf (exec (.entryModeSet 39) (st (loFire 0x0002706)))).D = 0x6 := by decide
theorem test_displayOn_low : (engOf (exec (.displayOn 39) (st (loFire 0x000270C)))).D = 0xC := by decide
theorem test_cursorSet_high : (engOf (exec (.cursorSet 0x40 39) (st (hiFire 0x00027C0)))).D = 0xC := by decide
theorem test_cursorSet_low : (engOf (exec (.cursorSet 0x4F 39) (st (loFire 0x00027CF)))).D = 0xF := by decide
theorem test_writer_high : engOf (exec (.dataWriteWriter 0x41) (st (hiFire 0x1002B41)))
    = { runIdle with active := 0x1002B41, state := .sendingHigh, RS := true, D := 0x4, pPhase := .setup, pRem := 1 } := by
  decide
theorem test_writer_delay : (engOf (exec (.dataWriteWriter 0x41) (st (loPulse 0x1002B41)))).tRem = 43 := by decide

/-- V-Q-3, third row: the trigger takes the waiting word. -/
theorem test_step_fetches : engOf (step (st { runIdle with q := [0x0002728] } 0x00 [.op .advance]))
    = { runIdle with active := 0x0002728, state := .sendingHigh, tArmed := true, tRem := 1 } := by decide
/-- V-F-9: an advance with the Executing expiry takes one word, not two. -/
theorem test_expiry_takes_one : engOf (step (st (lastTick 0x0002728 [0x0002708, 0x0002706]) 0x00 [.op .advance]))
    = { runIdle with active := 0x0002708, state := .sendingHigh, tArmed := true, tRem := 1, q := [0x0002706] } := by decide
/-- V-F-7: a push in the tick of the expiry is not seen by it. -/
theorem test_expiry_misses_push : engOf (step (st (lastTick 0x0002728 []) 0x00 [.op (.push 0x0002708)]))
    = { runIdle with active := 0x0002728, q := [0x0002708] } := by decide

/-! ### The direct port (V-P-1 to V-P-7) -/

theorem test_setLevel : engOf (exec (.setLevel 3 true) (st { Engine.init with D := 0x3 }))
    = { Engine.init with D := 0xB } ∧ engOf (exec (.setLevel 6 true) (st Engine.init)) = Engine.init := by decide
theorem test_setLevel_EN_falls : nextOf (exec (.setLevel 4 false) (st { Engine.init with D := 0xB, RS := true, EN := true }))
    = some { State.reset with eng := { Engine.init with D := 0xB, RS := true }, now := 1, events := [⟨1, true, 0xB⟩] } := by
  decide
theorem test_pulse_starts : engOf (exec .pulseEnable (st Engine.init)) = directPulse := by decide
theorem test_pulse_in_pulse : engOf (exec .pulseEnable (st directPulse)) = Engine.init := by decide
theorem test_both_data : engOf (exec (.setLevelPulse 1 true) (st Engine.init)) = { directPulse with D := 0x2 } := by decide
theorem test_both_enable : engOf (exec (.setLevelPulse 4 false) (st Engine.init)) = directPulse := by decide
theorem test_sendNibble_first : nextOf (exec (.sendNibble 0xD) (st { Engine.init with RS := true }))
    = some { st Engine.init 0x00 [.op (.dp 0b010001), .op (.dp 0b010010), .op (.dp 0b010101), .op (.dp 0b010111),
        .op (.dp 0b100000)] with now := 1 } := by decide
theorem test_sendNibble3_lines : (nextOf (exec .sendNibble3 (st Engine.init))).map (·.prod.program)
    = some [.op (.dp 0b010001), .op (.dp 0b010011), .op (.dp 0b010100), .op (.dp 0b010110), .op (.dp 0b100000)] := by decide
theorem test_sendNibble2_lines : (nextOf (exec .sendNibble2 (st Engine.init))).map (·.prod.program)
    = some [.op (.dp 0b010000), .op (.dp 0b010011), .op (.dp 0b010100), .op (.dp 0b010110), .op (.dp 0b100000)] := by decide

/-! ### Queue, trigger, mode, reset (V-Q-1 to V-Q-5, V-P-5, V-F-6, V-F-10) -/

theorem test_push : engOf (exec (.push 0x0002728) (st Engine.init)) = { Engine.init with q := [0x0002728] } := by decide
theorem test_push_full : engOf (exec (.push 0x00027AA) (st { Engine.init with q := tenWords }))
    = { Engine.init with q := tenWords } := by decide
theorem test_pop : engOf (exec .pop (st { Engine.init with q := [0x0002728, 0x0002708] }))
    = { Engine.init with q := [0x0002708], active := 0x0002728 } := by decide
theorem test_advance_direct_mode : engOf (exec .advance (st { Engine.init with q := [0x0002728] }))
    = { Engine.init with q := [0x0002728] } := by decide
theorem test_advance_empty : engOf (exec .advance (st runIdle)) = runIdle := by decide
theorem test_setRun : engOf (exec .setRun (st Engine.init)) = runIdle := by decide
theorem test_setRun_in_pulse : (engOf (exec .setRun (st directPulse))).run = false := by decide
theorem test_reset_in_pulse : nextOf (exec .reset (st (hiPulse 0x1002BFF)))
    = some { State.reset with eng := { Engine.init with active := 0x1002BFF }, now := 1, events := [⟨1, false, 0x0⟩] } := by
  decide

/-! ### The character writer and the bootstrap (V-W-1 to V-W-9, P1) -/

theorem test_tilde : nextOf (exec .writeCharTilde (st runIdle 0x4A))
    = some { st { runIdle with q := [0x005FA01] } 0x4A [.setCursor 0x00, .op .advance] with now := 1 } := by decide
theorem test_backspace : nextOf (exec .writeCharBackspace (st runIdle 0x40))
    = some { st { runIdle with q := [0x000278F] } 0x0F
        [.op (.push 0x1002B20), .op (.push 0x000278F), .op .advance] with now := 1 } := by decide
theorem test_backspace_at_zero : nextOf (exec .writeCharBackspace (st runIdle 0x00))
    = some { st runIdle 0x00 [] with now := 1 } := by decide
theorem test_character : nextOf (exec (.writeCharOther 0x7A) (st runIdle 0x4F))
    = some { st { runIdle with q := [0x00027CF] } 0x4F
        [.op (.push 0x1002B7A), .setCursor 0x00, .op .advance] with now := 1 } := by decide
theorem test_initCall : (nextOf (exec .initCall (st (hiPulse 0x1002BFF)))).map (·.prod.program)
    = some [.wait 15000, .op (.nib 3), .wait 4100, .op (.nib 3), .wait 100, .op (.nib 3), .wait 40, .op (.nib 2),
        .wait 40, .op .setRun, .op (.push 0x0002728), .op (.push 0x0002708), .op (.push 0x005FA01),
        .op (.push 0x0002706), .op (.push 0x000270C), .op .advance, .waitIdle] := by decide
theorem test_cursor_hidden : cursorNext 0x10 = 0x40 ∧ cursorNext 0x3F = 0x40 ∧ cursorNext 0x50 = 0x00
    ∧ cursorNext 0x7F = 0x00 := by decide

/-! ### The host program (R83) -/

theorem test_push_is_held : (nextOf (step (st { Engine.init with q := tenWords } 0x00 [.op (.push 0)]))).map (·.prod.program)
    = some [.op (.push 0)] := by decide
theorem test_wait_counts : (nextOf (step (st Engine.init 0x00 [.wait 2, .op .setRun]))).map (·.prod.program)
    = some [.wait 1, .op .setRun] := by decide
theorem test_zero_tick_lines : nextOf (step (st Engine.init 0x00 [.wait 0, .waitIdle, .setCursor 0x40, .op .setRun]))
    = some { st runIdle 0x40 [] with now := 1 } := by decide

theorem test_withFetchWord_word : engOf (step (State.reset.withFetchWord 32 0x1002B41))
    = { runIdle with active := 0x1002B41, state := .sendingHigh, tArmed := true, tRem := 1 } := by decide
theorem test_withFetchWord_port : engOf (step (State.reset.withFetchWord 6 0b010111))
    = { Engine.init with D := 0x8 } := by decide

/-! ### A state that meets the hypotheses of each statement, each clause at a boundary -/

/-- Direct mode, a pulse line next. -/
def pulseNext : State := st Engine.init 0x4F [.op (.dp 0b100000)]
/-- Run mode, the trigger next, ten words. -/
def triggerNext : State := st { runIdle with q := tenWords } 0x0F [.op .advance]

/-- A pulse of the machine in its setup phase. -/
def setupPhase (r : Nat) : Engine := { runIdle with state := .sendingHigh, pPhase := .setup, pRem := r }
/-- Run mode, idle, with this queue. -/
def holding (q : List Word) : Engine := { runIdle with q := q }

theorem witness_ResetGivesTheResetState : (In.hardReset).rst = true := rfl
theorem witness_StepKeepsTheEngineInvariant :
    (hiPulse 0).Inv ∧ ∃ t, step (st (hiPulse 0)) = .next t := ⟨by decide, _, rfl⟩
theorem witness_StepKeepsEnableTrackingThePulse :
    pulseNext.eng.Inv ∧ pulseNext.prod.SparesEn ∧ pulseNext.eng.EnTracks ∧ ∃ t, step pulseNext = .next t :=
  ⟨by decide, by decide, by decide, _, rfl⟩
theorem witness_StepKeepsTheCursorVisible :
    (st runIdle 0x4F [.op (.char 0x41), .setCursor 0x0F]).prod.CursorVisible
    ∧ ∃ t, step (st runIdle 0x4F [.op (.char 0x41), .setCursor 0x0F]) = .next t :=
  ⟨⟨by decide, by simp [st, visible]⟩, _, rfl⟩
theorem witness_StepIsOneTick : ∃ t, step pulseNext = .next t := ⟨_, rfl⟩

theorem witness_StepRunsTheDecodedInstruction_host :
    pulseNext.settled.prod.program = .op (.dp 0b100000) :: [] ∧ decodeHost (.dp 0b100000) = .ok .pulseEnable
    ∧ (.pulseEnable : Instr) ≠ .advance := ⟨rfl, rfl, by decide⟩
theorem witness_StepRunsTheDecodedInstruction_lost_trigger :
    (st Engine.init 0x00 [.op .advance]).settled.prod.program = .op .advance :: []
    ∧ decodeHost .advance = .ok .advance ∧ Engine.init.fetch = none := ⟨rfl, rfl, rfl⟩
theorem witness_StepRunsTheDecodedInstruction_fetch :
    triggerNext.settled.prod.program = .op .advance :: [] ∧ triggerNext.eng.fetch = some 0 := ⟨rfl, rfl⟩
theorem witness_StepRunsTheDecodedInstruction_inFlight :
    (st (hiFire 5)).settled.prod.program = [] ∧ (st (hiFire 5)).eng.inFlight = some 5 := ⟨rfl, rfl⟩
theorem witness_StepRunsTheDecodedInstruction_waitIdle :
    (st (loFire 5) 0x00 [.waitIdle]).settled.prod.program = .waitIdle :: []
    ∧ (st (loFire 5) 0x00 [.waitIdle]).eng.inFlight = some 5 := ⟨rfl, rfl⟩
theorem witness_StepRunsTheDecodedInstruction_wait :
    (st (lastTick 5 []) 0x00 [.wait 1]).settled.prod.program = .wait (0 + 1) :: []
    ∧ (st (lastTick 5 []) 0x00 [.wait 1]).eng.inFlight = some 5 := ⟨rfl, rfl⟩
theorem witness_StepRunsTheDecodedInstruction_nothing :
    (st runIdle).settled.prod.program = [] ∧ runIdle.inFlight = none
    ∧ (st (holding [0]) 0x00 [.waitIdle]).settled.prod.program = .waitIdle :: [] ∧ (holding [0]).inFlight = none
    ∧ (st directPulse 0x00 [.wait 1]).settled.prod.program = .wait (0 + 1) :: [] ∧ directPulse.inFlight = none :=
  ⟨rfl, rfl, rfl, rfl, rfl, rfl⟩
theorem witness_StepRunsTheDecodedInstruction_noRequest :
    (st (hiFire 5) 0x00 [.op (.dp 0b001111)]).settled.prod.program = .op (.dp 0b001111) :: []
    ∧ decodeHost (.dp 0b001111) = .error .noRequest ∧ (hiFire 5).inFlight = some 5
    ∧ (st directPulse 0x00 [.op (.dp 0)]).settled.prod.program = .op (.dp 0) :: []
    ∧ decodeHost (.dp 0) = .error .noRequest ∧ directPulse.inFlight = none := ⟨rfl, rfl, rfl, rfl, rfl, rfl⟩
theorem witness_StepRunsTheDecodedInstruction_ports :
    (st Engine.init 0x00 [.ports In.goRun]).settled.prod.program = .ports In.goRun :: [] := rfl
theorem witness_StepStopsOnlyAtAMalformedNibble :
    (nextOf (step (st Engine.init 0x00 [.op (.nib 0b10011)]))).isNone = true
    ∧ (nextOf (step (st Engine.init 0x00 [.op (.nib 0b01111)]))).isSome = true := by decide
theorem witness_FinishedRunStaysFinished :
    runIdle.Inv ∧ (st runIdle).over ∧ (st runIdle 0x00 [.wait 3, .waitIdle, .setCursor 0x40]).over
    ∧ (st runIdle 0x00 [.waitIdle, .op (.dp 0b001111), .ports In.quiet]).over := by
  refine ⟨?_, ?_, ?_, ?_⟩ <;> decide

theorem witness_WordIsTakenFromTheQueue :
    encode (.cmd 0 0) = some (.iw 0) ∧ triggerNext.eng.Inv ∧ triggerNext.eng.state = .idle
    ∧ triggerNext.eng.run = true ∧ triggerNext.eng.q = 0 :: [1, 2, 3, 4, 5, 6, 7, 8, 9] := by decide
theorem witness_WordDrivesItsHighNibble :
    encode (.functionSet 39) = some (.iw (hiFire 0x0002728).active)
    ∧ wordOf (.functionSet 39) = some ⟨false, 39, 0x28⟩ ∧ (hiFire 0x0002728).Inv
    ∧ (hiFire 0x0002728).state = .sendingHigh ∧ (hiFire 0x0002728).fire = true
    ∧ In.trigger.rst = false ∧ (hiFire 0x0002728).pulseDone = false := by decide
theorem witness_WordEndsItsHighPulse :
    wordOf (.cmd 0 0) = some ⟨false, 0, 0⟩ ∧ (hiPulse 0).Inv ∧ (hiPulse 0).EnTracks
    ∧ (hiPulse 0).state = .sendingHigh ∧ (hiPulse 0).pulseDone = true := by decide
theorem witness_WordDrivesItsLowNibble :
    encode (.dataWrite 0xFF 65535) = some (.iw (loFire 0x1FFFFFF).active)
    ∧ wordOf (.dataWrite 0xFF 65535) = some ⟨true, 65535, 0xFF⟩ ∧ (loFire 0x1FFFFFF).Inv
    ∧ (loFire 0x1FFFFFF).state = .sendingLow ∧ (loFire 0x1FFFFFF).fire = true := by decide
theorem witness_WordStartsItsExecutionDelay :
    encode (.cmd 0 0) = some (.iw (loPulse 0).active) ∧ wordOf (.cmd 0 0) = some ⟨false, 0, 0⟩ ∧ (loPulse 0).Inv ∧ (loPulse 0).EnTracks
    ∧ (loPulse 0).state = .sendingLow ∧ (loPulse 0).pulseDone = true := by decide
theorem witness_WordEndsAndAdvances :
    wordOf (.cmd 0 0) = some ⟨false, 0, 0⟩ ∧ (lastTick 0 tenWords).Inv ∧ (lastTick 0 tenWords).state = .executing
    ∧ (lastTick 0 tenWords).fire = true ∧ (lastTick 0 []).Inv ∧ (lastTick 0 []).fire = true := by
  refine ⟨?_, ?_, ?_, ?_, ?_, ?_⟩ <;> decide
theorem witness_WordCountsBetweenEvents_timer :
    let e : Engine := { lastTick 0 [] with tRem := 2 }
    e.Inv ∧ e.state ≠ .idle ∧ e.tArmed = true ∧ e.fire = false := by decide
theorem witness_WordCountsBetweenEvents_setup :
    (setupPhase 2).Inv ∧ (setupPhase 2).state ≠ .idle ∧ (setupPhase 2).pPhase = .setup ∧ 1 < (setupPhase 2).pRem
    ∧ (setupPhase 1).Inv ∧ (setupPhase 1).pPhase = .setup ∧ (setupPhase 1).pRem ≤ 1 := by
  refine ⟨?_, ?_, ?_, ?_, ?_, ?_, ?_⟩ <;> decide
theorem witness_WordCountsBetweenEvents_high :
    let e : Engine := { hiPulse 0 with pRem := 2 }
    e.Inv ∧ e.state ≠ .idle ∧ e.pPhase = .high ∧ 1 < e.pRem := by decide
theorem witness_WordInFlightIsTheTick : (hiFire 7).inFlight = some 7 := rfl

theorem witness_SetLevelWritesItsLatch :
    directPulse.dirReady = false ∧ Engine.init.Inv ∧ Engine.init.dirReady = true ∧ (3 : BitVec 3).toNat ≤ 3 ∧ 6 ≤ (6 : BitVec 3).toNat ∧ 6 ≤ (7 : BitVec 3).toNat := by decide
theorem witness_SetLevelWithPulseAppliesBoth :
    directPulse.dirReady = false ∧ Engine.init.Inv ∧ Engine.init.dirReady = true := by decide
theorem witness_PulseEnableHoldsAndReleases_request :
    directPulse.dirReady = false ∧ Engine.init.Inv ∧ Engine.init.dirReady = true := by decide
theorem witness_SendNibbleExpands :
    ((.sendNibble3 : Instr) = .sendNibble3 ∧ (3 : Nibble) = 3) ∧ Engine.init.Inv ∧ Engine.init.dirReady = true := by decide
theorem witness_PulseEnableHoldsAndReleases :
    directPulse.Inv ∧ directPulse.run = false ∧ directPulse.EN = true ∧ directPulse.pPhase = .high
    ∧ directPulse.pRem = Params.ref.pulseTicks ∧ 1 ≤ Params.ref.pulseTicks
    ∧ noReset [] ∧ ([] : List In).length < Params.ref.pulseTicks
    ∧ noReset [In.goRun] ∧ [In.goRun].length = Params.ref.pulseTicks := by decide
theorem witness_RefusedRequestsChangeNothing :
    Engine.init.run = false ∧ (hiFire 0).state ≠ .idle ∧ runIdle.dirReady = false ∧ directPulse.dirReady = false
    ∧ 6 ≤ (6 : BitVec 3).toNat ∧ (In.direct true false 0 false).dirPulse = true := by decide
theorem witness_SendNibbleLatchesItsNibble :
    Engine.init.Inv ∧ Engine.init.dirReady = true ∧ Engine.init.EN = false ∧ 1 ≤ State.reset.cfg.pulseTicks ∧ (st Engine.init 0x00 [.op (.nib (encodeNibble 0xF))]).prod.program
      = [.op (.nib (encodeNibble 0xF))] := by decide
theorem witness_MacrosWaitForTheirPort :
    directPulse.dirReady = false ∧ 10 ≤ (st { runIdle with q := tenWords } 0x40).eng.q.length
    ∧ (st { runIdle with q := tenWords } 0x40).prod.cursor ≠ 0 := by decide
theorem witness_PushAppendsOrWaits :
    (tenWords.drop 1).length < 10 ∧ 10 ≤ tenWords.length := by decide
theorem witness_AdvanceStartsAnIdleMachine :
    triggerNext.eng.Inv ∧ runIdle.Inv ∧ triggerNext.eng.run = true ∧ triggerNext.eng.state = .idle := by
  refine ⟨?_, ?_, ?_, ?_⟩ <;> decide
theorem witness_SetRunEntersRunMode :
    Engine.init.Inv ∧ Engine.init.run = false ∧ Engine.init.pPhase = .idle := by decide
theorem witness_RunModeClosesTheDirectPort : runIdle.run = true ∧ In.goRun.rst = false := ⟨rfl, rfl⟩
theorem witness_SimultaneousEvents_queue :
    Engine.init.state = .idle ∧ Engine.init.q = []
    ∧ (lastTick 0 []).state = .executing ∧ (lastTick 0 []).fire = true ∧ (lastTick 0 []).q = []
    ∧ triggerNext.eng.q.length = 10 ∧ triggerNext.eng.wantAdvance true = true
    ∧ 0 < [(0 : Word)].length ∧ ({ runIdle with q := tenWords.drop 1 } : Engine).q.length < 10
    ∧ ({ runIdle with q := tenWords.drop 1 } : Engine).wantAdvance true = true := by decide
theorem witness_SimultaneousEvents_direct : Engine.init.Inv ∧ Engine.init.dirReady = true := by decide
theorem witness_SimultaneousEvents_fire :
    (hiFire 0).state = .sendingHigh ∧ (hiFire 0).fire = true ∧ (loFire 0).state = .sendingLow
    ∧ (loFire 0).fire = true := by decide
theorem witness_PushIntoAStuckQueueWaitsForEver :
    ({ runIdle with q := tenWords } : Engine).Inv ∧ ({ runIdle with q := tenWords } : Engine).stuckFull
    ∧ ({ Engine.init with q := tenWords } : Engine).stuckFull := by decide
theorem witness_QueueIsFirstInFirstOut : noReset [In.pushOf 5, In.trigger, In.direct true true 4 false] := by decide
theorem witness_ActiveChangesOnlyByDequeue : In.trigger.rst = false := rfl
theorem witness_PhaseFollowsTheCycle :
    triggerNext.eng.Inv ∧ (hiPulse 0).Inv ∧ (loPulse 0).Inv ∧ (lastTick 0 []).Inv ∧ In.trigger.rst = false := by
  refine ⟨?_, ?_, ?_, ?_, ?_⟩ <;> decide
theorem witness_RingBufferRefinesTheQueue :
    (RingBuffer.mk (Vector.replicate 10 0) 9 9 10).wf ∧ (RingBuffer.mk (Vector.replicate 10 0) 4 9 5).wf := by decide
theorem witness_LinesChangeOnlyWhenANibbleIsDriven :
    (loPulse 0).Inv ∧ (loPulse 0).run = true
    ∧ ¬ (((loPulse 0).state = .sendingHigh ∨ (loPulse 0).state = .sendingLow) ∧ (loPulse 0).fire = true) := by decide
theorem witness_StatusOutputsMoveOnlyAsListed :
    (holding tenWords).Inv ∧ (holding tenWords).pushReady = false ∧ ((holding tenWords).tick Params.ref In.trigger).pushReady = true
    ∧ (lastTick 0 []).isIdle = false ∧ ((lastTick 0 []).tick Params.ref In.quiet).isIdle = true
    ∧ directPulse.Inv ∧ directPulse.dirReady = false ∧ (directPulse.tick Params.ref In.quiet).dirReady = true
    ∧ Engine.init.dirReady = true ∧ (Engine.init.tick Params.ref In.goRun).dirReady = false := by
  refine ⟨?_, ?_, ?_, ?_, ?_, ?_, ?_, ?_, ?_, ?_⟩ <;> decide
theorem witness_StatusOutputsMoveOnlyAsListed_queue :
    (holding (tenWords.drop 1)).Inv ∧ (holding (tenWords.drop 1)).pushReady = true
    ∧ ((holding (tenWords.drop 1)).tick Params.ref (In.pushOf 0)).pushReady = false
    ∧ (holding [0]).Inv ∧ (holding [0]).empty = false ∧ ((holding [0]).tick Params.ref In.trigger).empty = true
    ∧ (holding [0]).isIdle = true ∧ ((holding [0]).tick Params.ref In.trigger).isIdle = false
    ∧ runIdle.empty = true ∧ (runIdle.tick Params.ref (In.pushOf 0)).empty = false := by
  refine ⟨?_, ?_, ?_, ?_, ?_, ?_, ?_, ?_, ?_, ?_⟩ <;> decide
theorem witness_EventsThatCannotOccur :
    (lastTick 0 []).Inv ∧ (lastTick 0 []).run = true ∧ (lastTick 0 []).state = .executing
    ∧ ({ Engine.init with tArmed := true } : Engine).state = .idle
    ∧ ({ Engine.init with tArmed := true } : Engine).fire = true := by decide
theorem witness_LatchesAreTheNibblesOfTheWords :
    noReset [In.trigger, In.pushOf 5] ∧ (loPulse 0).Inv ∧ (loPulse 0).EnTracks ∧ (loPulse 0).run = true := by decide
theorem witness_WordRunsToCompletion :
    1 ≤ Params.ref.pulseTicks ∧ 1 ≤ Params.ref.minTicks.toNat ∧ (hiFire 0x000005A).Inv
    ∧ (hiFire 0x000005A).state = .sendingHigh ∧ (hiFire 0x000005A).tArmed = true
    ∧ (hiFire 0x000005A).tRem = Params.ref.minTicks
    ∧ (List.replicate 6 In.quiet).length + 1 = wordTicks Params.ref (hiFire 0x000005A).active
    ∧ noReset (List.replicate 6 In.quiet) := by decide
theorem witness_WordKeepsTheReferenceSchedule :
    (hiFire 0x000025A).Inv ∧ (hiFire 0x000025A).EN = false ∧ (hiFire 0x000025A).tArmed = true
    ∧ (hiFire 0x000025A).tRem = Params.ref.minTicks ∧ noReset (List.replicate 5 In.trigger)
    ∧ (fieldsOf (hiFire 0x000025A).active).timerLoad.toNat = 2 := by
  refine ⟨?_, ?_, ?_, ?_, ?_, ?_⟩ <;> decide
theorem witness_WordKeepsTheReferenceSchedule_lengths :
    noReset (List.replicate 8 In.trigger) ∧ [1, 2, 3, 4, 5].map (fun n => (List.replicate n In.trigger).length) = [1, 2, 3, 4, 5]
    ∧ 6 ≤ (List.replicate 6 In.trigger).length ∧ (List.replicate 7 In.trigger).length < 6 + 2
    ∧ (List.replicate 8 In.trigger).length = 6 + 2 := by decide
/-- Row n+7+d of R140, both ways: the queue empty, and a word pushed in the second-last tick. -/
theorem witness_WordKeepsTheReferenceSchedule_last :
    ((hiFire 0x000025A).after Params.ref (List.replicate 7 In.quiet)).q = []
    ∧ ((hiFire 0x000025A).after Params.ref (List.replicate 6 In.quiet ++ [In.pushOf 7])).q = [7] := by decide
theorem witness_TriggerDrainsTheQueueOnSchedule :
    triggerNext.eng.Inv ∧ triggerNext.eng.EN = false ∧ triggerNext.eng.run = true ∧ triggerNext.eng.state = .idle
    ∧ triggerNext.eng.q = 0 :: [1, 2, 3, 4, 5, 6, 7, 8, 9] ∧ triggerNext.cfg = Params.ref
    ∧ triggerNext.prod.program = [.op .advance] := by decide
theorem witness_AgentWordsCarryDelayAndMargin :
    let p : Params := { Params.ref with safetyMargin := 64005, displayOnDelay := 1530, cursorSetDelay := 1530,
                                        dataWriteDelay := 1530 }
    Params.ref.wf ∧ p.wf ∧ p.displayOnDelay.toNat ≤ 1530 ∧ p.cursorSetDelay.toNat ≤ 1530
    ∧ p.dataWriteDelay.toNat ≤ 1530 ∧ Params.ref.displayOnDelay.toNat ≤ 1530 := by decide
theorem witness_WriteCharacterExpands :
    ({ runIdle with q := tenWords.drop 1 } : Engine).q.length < 10 ∧ (st runIdle 0x01).prod.cursor ≠ 0
    ∧ (st runIdle 0x00).prod.cursor = 0 := by decide
theorem witness_WriteCharacterCall :
    runIdle.Inv ∧ runIdle.booted ∧ (st runIdle 0x40 [.op (.char 0x08)]).prod.program = [.op (.char 0x08)]
    ∧ (st runIdle 0x40 [.op (.char 0x08)]).prod.cursor ≠ 0
    ∧ (st runIdle 0x00 [.op (.char 0x08)]).prod.cursor = 0 := by decide
theorem witness_BootstrapProducesTheFourteenEvents :
    (st (hiPulse 0) 0x4F [.op .initCall]).cfg = Params.ref
    ∧ (st (hiPulse 0) 0x4F [.op .initCall]).prod.program = [.op .initCall] := by decide
theorem witness_DecodeOfEncodeIsTheInstruction :
    WellFormed (.cursorSet 0x7F 65535) = true
    ∧ encode (.cursorSet 0x7F 65535) = some (.iw 0b0_1111111111111111_11111111) := by decide
/-- R174 with PULSE_TICKS 7: the WAIT is six ticks longer, so that 40 ticks pass from fall to rise. -/
theorem test_wait_outlasts_pulse : waitAfterPulse { Params.ref with pulseTicks := 7 } 40 = .wait 46
    ∧ waitAfterPulse Params.ref 40 = .wait 40 := by decide
theorem witness_DirectWaitsRunFromFallToRise :
    Engine.init.Inv ∧ Engine.init.dirReady = true ∧ Engine.init.EN = false ∧ 1 ≤ State.reset.cfg.pulseTicks ∧ 1 ≤ 40
    ∧ (st Engine.init 0x00 [.op (.nib (encodeNibble 0xF)), waitAfterPulse Params.ref 40, .op (.nib (encodeNibble 0))]).prod.program
      = [.op (.nib (encodeNibble 0xF)), waitAfterPulse (st Engine.init).cfg 40, .op (.nib (encodeNibble 0))] := by decide
theorem witness_BootstrapMeetsItsWaits :
    (st (hiPulse 0) 0x00 [.op .initCall]).cfg.wf ∧ (st (hiPulse 0) 0x00 [.op .initCall]).prod.program = [.op .initCall]
    ∧ ({ Params.ref with pulseTicks := 7 } : Params).wf := by decide

end Sys2Proof.Tests
end

/-! # The state of the engine: what every tick and every step keeps (10_state) -/

namespace Sys2Proof.Machine

/-! ## Rules about the parts of the tick -/

@[simp] theorem Engine.startPulse_tArmed (n : Engine) (p : Params) : (n.startPulse p).tArmed = n.tArmed := by
  rw [n.startPulse_frame p]
@[simp] theorem Engine.startPulse_tRem (n : Engine) (p : Params) : (n.startPulse p).tRem = n.tRem := by
  rw [n.startPulse_frame p]
@[simp] theorem Engine.pulseStep_tArmed (s : Engine) (p : Params) : (s.pulseStep p).tArmed = s.tArmed := by
  rw [s.pulseStep_frame p]
@[simp] theorem Engine.pulseStep_tRem (s : Engine) (p : Params) : (s.pulseStep p).tRem = s.tRem := by
  rw [s.pulseStep_frame p]

/-- The sequencer's last tick lets EN fall (R98). -/
theorem Engine.pulseStep_done {s : Engine} (p : Params) (hd : s.pulseDone = true) :
    s.pulseStep p = { s with EN := false, pPhase := .idle, pRem := 0 } := by
  obtain ⟨hp, hr⟩ := Engine.pulseDone_iff.1 hd
  simp [Engine.pulseStep, hp, hr]

/-- A pulse that has begun stays in a phase other than P_IDLE until its last tick (R98). -/
theorem Engine.pulseStep_pPhase_idle_iff {s : Engine} (p : Params) :
    (s.pulseStep p).pPhase = .idle ↔ s.pPhase = .idle ∨ s.pulseDone = true := by
  unfold Engine.pulseStep Engine.pulseDone
  cases hp : s.pPhase <;> by_cases hr : s.pRem ≤ 1 <;> simp [hp, hr]

theorem Engine.startPulse_pPhase_ne_idle (n : Engine) (p : Params) : (n.startPulse p).pPhase ≠ .idle := by
  unfold Engine.startPulse; split <;> simp

/-- The phase after the advance operation (R131). -/
theorem Engine.advanceOp_state (n : Engine) (p : Params) :
    (n.advanceOp p).state = if n.q = [] then .idle else .sendingHigh := by
  cases hq : n.q with
  | nil => rw [Engine.advanceOp_nil hq]; rfl
  | cons w rest => rw [Engine.advanceOp_cons hq]; rfl

/-- `PinWrite` writes the latches D, RS and EN only (R56, R91). -/
theorem Engine.pinWrite_frame (e : Engine) (g : BitVec 3) (b : Bool) :
    e.pinWrite g b = { e with D := (e.pinWrite g b).D, RS := (e.pinWrite g b).RS, EN := (e.pinWrite g b).EN } := by
  unfold Engine.pinWrite
  repeat' split
  all_goals rfl

@[simp] theorem Engine.pinWrite_q (e : Engine) (g : BitVec 3) (b : Bool) : (e.pinWrite g b).q = e.q := by
  rw [e.pinWrite_frame g b]
@[simp] theorem Engine.pinWrite_state (e : Engine) (g : BitVec 3) (b : Bool) :
    (e.pinWrite g b).state = e.state := by rw [e.pinWrite_frame g b]
@[simp] theorem Engine.pinWrite_run (e : Engine) (g : BitVec 3) (b : Bool) : (e.pinWrite g b).run = e.run := by
  rw [e.pinWrite_frame g b]
@[simp] theorem Engine.pinWrite_tArmed (e : Engine) (g : BitVec 3) (b : Bool) :
    (e.pinWrite g b).tArmed = e.tArmed := by rw [e.pinWrite_frame g b]
@[simp] theorem Engine.pinWrite_tRem (e : Engine) (g : BitVec 3) (b : Bool) : (e.pinWrite g b).tRem = e.tRem := by
  rw [e.pinWrite_frame g b]
@[simp] theorem Engine.pinWrite_pPhase (e : Engine) (g : BitVec 3) (b : Bool) :
    (e.pinWrite g b).pPhase = e.pPhase := by rw [e.pinWrite_frame g b]
@[simp] theorem Engine.pinWrite_pRem (e : Engine) (g : BitVec 3) (b : Bool) : (e.pinWrite g b).pRem = e.pRem := by
  rw [e.pinWrite_frame g b]

/-- The levels after a tick's `SETLEVEL` request, if there is one (R91). -/
def Engine.levelStep (n : Engine) (inp : In) : Engine :=
  if inp.dirSet then n.pinWrite inp.dirSig inp.dirBit else n

/-- `SETLEVEL` writes the latches only. -/
theorem Engine.levelStep_keeps (n : Engine) (inp : In) :
    (n.levelStep inp).q = n.q ∧ (n.levelStep inp).state = n.state ∧ (n.levelStep inp).run = n.run
    ∧ (n.levelStep inp).tArmed = n.tArmed ∧ (n.levelStep inp).tRem = n.tRem
    ∧ (n.levelStep inp).pPhase = n.pPhase ∧ (n.levelStep inp).pRem = n.pRem := by
  unfold Engine.levelStep
  split <;> simp

/-- An open direct port: the level, then a pulse, or else run mode (R95, R96, R139). -/
theorem Engine.directStep_open {s : Engine} (n : Engine) (p : Params) (inp : In) (h : s.dirReady = true) :
    s.directStep n p inp =
      if inp.dirPulse then (n.levelStep inp).raiseEnable p
      else { n.levelStep inp with run := (n.levelStep inp).run || inp.setRun } := by
  unfold Engine.directStep Engine.levelStep
  cases inp.dirPulse <;> cases inp.setRun <;> simp [h]

end Sys2Proof.Machine

namespace Sys2Proof.Machine

/-! ## The tick under the engine's invariant -/

/-! ### The four situations of the engine -/

/-- What Inv (R41) allows, told by what is at work: nothing, a pulse of the direct port, the timer, or a
pulse of the word in flight. A part that is not at work reads 0 (R26, R27). -/
inductive Engine.Situation (e : Engine) : Prop
  | resting (state : e.state = .idle) (timer : e.tArmed = false) (tRem : e.tRem = 0)
      (pulse : e.pPhase = .idle) (pRem : e.pRem = 0)
  | directPulse (mode : e.run = false) (state : e.state = .idle) (timer : e.tArmed = false)
      (tRem : e.tRem = 0) (pulse : e.pPhase ≠ .idle)
  | timing (mode : e.run = true) (state : e.state ≠ .idle) (timer : e.tArmed = true)
      (pulse : e.pPhase = .idle) (pRem : e.pRem = 0)
  | pulsing (mode : e.run = true) (state : e.state = .sendingHigh ∨ e.state = .sendingLow)
      (timer : e.tArmed = false) (tRem : e.tRem = 0) (pulse : e.pPhase ≠ .idle)

/-- The invariant is the queue's form and one of the four situations. -/
theorem Engine.inv_iff_situation {e : Engine} : e.Inv ↔ queueWf e.q ∧ e.Situation := by
  constructor
  · rintro ⟨hq, hdirect, -, hpulse, hexec, hidle, htRem, hpRem, hsend⟩
    refine ⟨hq, ?_⟩
    by_cases hs : e.state = .idle
    · obtain ⟨ht, hrun⟩ := hidle hs
      by_cases hp : e.pPhase = .idle
      · exact .resting hs ht (htRem ht) hp (hpRem hp)
      · exact .directPulse (by simpa using mt hrun hp) hs ht (htRem ht) hp
    · have hr : e.run = true := by simpa using mt (fun h => (hdirect h).1) hs
      by_cases hp : e.pPhase = .idle
      · refine .timing hr hs ?_ hp (hpRem hp)
        cases hst : e.state with
        | idle => exact absurd hst hs
        | executing => exact hexec hst
        | sendingHigh => exact (hsend (.inl hst)).resolve_right (not_not_intro hp)
        | sendingLow => exact (hsend (.inr hst)).resolve_right (not_not_intro hp)
      · obtain ⟨hst, ht⟩ := hpulse hp hr
        exact .pulsing hr hst ht (htRem ht) hp
  · rintro ⟨hq, h⟩
    refine ⟨hq, ?_⟩
    cases h with
    | resting state timer tRem pulse pRem => simp [*]
    | directPulse mode state timer tRem pulse => simp [*]
    | timing mode state timer pulse pRem => simp [*]
    | pulsing mode state timer tRem pulse => rcases state with hs | hs <;> simp [*]

/-! ### The machine's part of the tick in each situation -/

/-- At rest the machine only takes a trigger (R129). -/
theorem Engine.machineStep_resting {s : Engine} (p : Params) (f : WordFields) (adv : Bool)
    (hs : s.state = .idle) (ht : s.tArmed = false) (hp : s.pPhase = .idle) :
    s.machineStep p f adv = if adv && s.run then s.advanceOp p else s := by
  simp [Engine.machineStep, Engine.transmit, Engine.wantAdvance, hs, Engine.pulseStep_idle hp,
    Engine.timerStep_off ht]

/-- In direct mode the machine's part is the sequencer's step. -/
theorem Engine.machineStep_direct {s : Engine} (p : Params) (f : WordFields) (adv : Bool)
    (hr : s.run = false) (hs : s.state = .idle) (ht : s.tArmed = false) :
    s.machineStep p f adv = s.pulseStep p := by
  have ht' : (s.pulseStep p).tArmed = false := by rw [s.pulseStep_frame p]; exact ht
  simp [Engine.machineStep, Engine.transmit, Engine.wantAdvance, hs, hr, Engine.timerStep_off ht']

/-- Short of its expiry the timer counts and nothing else happens (R128). -/
theorem Engine.machineStep_count {s : Engine} (p : Params) (f : WordFields) (adv : Bool)
    (hs : s.state ≠ .idle) (ht : s.tArmed = true) (hp : s.pPhase = .idle) (hf : s.fire = false) :
    s.machineStep p f adv = { s with tRem := s.tRem - 1 } := by
  have hd : s.pulseDone = false := Engine.pulseDone_idle (by simp [hp])
  cases hst : s.state with
  | idle => exact absurd hst hs
  | sendingHigh | sendingLow | executing =>
    simp [Engine.machineStep, Engine.transmit, Engine.wantAdvance, hst, hf, hd, Engine.pulseStep_idle hp,
      Engine.timerStep_eq, ht]

/-- The expiry in SendingHigh drives the high nibble (R133). -/
theorem Engine.machineStep_fire_high {s : Engine} (p : Params) (f : WordFields) (adv : Bool)
    (hs : s.state = .sendingHigh) (hp : s.pPhase = .idle) (hf : s.fire = true) :
    s.machineStep p f adv
      = (Engine.drive { s with tArmed := false, tRem := 0 } f.isData f.hi).startPulse p := by
  simp [Engine.machineStep, Engine.transmit, Engine.wantAdvance, hs, hf, Engine.pulseStep_idle hp,
    Engine.timerStep_eq, (Engine.fire_iff.1 hf).1]

/-- The expiry in SendingLow drives the low nibble (R135). -/
theorem Engine.machineStep_fire_low {s : Engine} (p : Params) (f : WordFields) (adv : Bool)
    (hs : s.state = .sendingLow) (hp : s.pPhase = .idle) (hf : s.fire = true) :
    s.machineStep p f adv
      = (Engine.drive { s with tArmed := false, tRem := 0 } f.isData f.lo).startPulse p := by
  simp [Engine.machineStep, Engine.transmit, Engine.wantAdvance, hs, hf, Engine.pulseStep_idle hp,
    Engine.timerStep_eq, (Engine.fire_iff.1 hf).1]

/-- The expiry in Executing goes to Idle and advances (R137). -/
theorem Engine.machineStep_fire_executing {s : Engine} (p : Params) (f : WordFields) (adv : Bool)
    (hs : s.state = .executing) (hp : s.pPhase = .idle) (hf : s.fire = true) :
    s.machineStep p f adv
      = Engine.advanceOp { s with state := .idle, tArmed := false, tRem := 0 } p := by
  simp [Engine.machineStep, Engine.transmit, Engine.wantAdvance, hs, hf, Engine.pulseStep_idle hp,
    Engine.timerStep_eq, (Engine.fire_iff.1 hf).1]

/-- Between its events a pulse of the word in flight is the sequencer's step (R98). -/
theorem Engine.machineStep_pulse {s : Engine} (p : Params) (f : WordFields) (adv : Bool)
    (hs : s.state = .sendingHigh ∨ s.state = .sendingLow) (ht : s.tArmed = false)
    (hd : s.pulseDone = false) : s.machineStep p f adv = s.pulseStep p := by
  have ht' : (s.pulseStep p).tArmed = false := by rw [s.pulseStep_frame p]; exact ht
  rcases hs with hs | hs <;>
    simp [Engine.machineStep, Engine.transmit, Engine.wantAdvance, hs, hd, Engine.fire_off ht,
      Engine.timerStep_off ht']

/-- The end of the high nibble's pulse arms the minimal timer for the low one (R134). -/
theorem Engine.machineStep_done_high {s : Engine} (p : Params) (f : WordFields) (adv : Bool)
    (hs : s.state = .sendingHigh) (ht : s.tArmed = false) (hd : s.pulseDone = true) :
    s.machineStep p f adv = Engine.arm
      { s with EN := false, pPhase := .idle, pRem := 0, state := .sendingLow } p.minTicks := by
  simp [Engine.machineStep, Engine.transmit, Engine.wantAdvance, hs, hd, Engine.fire_off ht,
    Engine.pulseStep_done p hd, Engine.timerStep_eq, ht, Engine.arm]

/-- The end of the low nibble's pulse arms the execution delay (R136). -/
theorem Engine.machineStep_done_low {s : Engine} (p : Params) (f : WordFields) (adv : Bool)
    (hs : s.state = .sendingLow) (ht : s.tArmed = false) (hd : s.pulseDone = true) :
    s.machineStep p f adv = Engine.arm
      { s with EN := false, pPhase := .idle, pRem := 0, state := .executing } f.timerLoad := by
  simp [Engine.machineStep, Engine.transmit, Engine.wantAdvance, hs, hd, Engine.fire_off ht,
    Engine.pulseStep_done p hd, Engine.timerStep_eq, ht, Engine.arm]

/-! ### Every tick keeps the invariant -/

/-- The reset state is at rest (R39). -/
theorem Engine.resetState_situation (e : Engine) : e.resetState.Situation := .resting rfl rfl rfl rfl rfl

/-- The advance operation starts the minimal timer, or leaves the machine at rest (R131). -/
theorem Engine.advanceOp_situation {n : Engine} (p : Params) (hr : n.run = true) (ht : n.tArmed = false)
    (htr : n.tRem = 0) (hp : n.pPhase = .idle) (hpr : n.pRem = 0) : (n.advanceOp p).Situation := by
  cases hq : n.q with
  | nil => rw [Engine.advanceOp_nil hq]; exact .resting rfl ht htr hp hpr
  | cons w rest => rw [Engine.advanceOp_cons hq]; exact .timing hr (by simp) rfl hp hpr

/-- A pulse of the direct port goes on, or ends at rest (R98). -/
theorem Engine.pulseStep_direct_situation {s : Engine} (p : Params) (hr : s.run = false)
    (hs : s.state = .idle) (ht : s.tArmed = false) (htr : s.tRem = 0) (hp : s.pPhase ≠ .idle) :
    (s.pulseStep p).Situation := by
  cases hd : s.pulseDone with
  | true => rw [Engine.pulseStep_done p hd]; exact .resting hs ht htr rfl rfl
  | false =>
    exact .directPulse ((s.pulseStep_run p).trans hr) ((s.pulseStep_state p).trans hs)
      ((s.pulseStep_tArmed p).trans ht) ((s.pulseStep_tRem p).trans htr)
      (by simp [Engine.pulseStep_pPhase_idle_iff, hp, hd])

/-- The timer counts on, or its expiry starts a nibble's pulse or the advance operation (R133, R135, R137). -/
theorem Engine.machineStep_timing_situation {s : Engine} (p : Params) (f : WordFields) (adv : Bool)
    (hr : s.run = true) (hs : s.state ≠ .idle) (ht : s.tArmed = true) (hp : s.pPhase = .idle)
    (hpr : s.pRem = 0) : (s.machineStep p f adv).Situation := by
  cases hf : s.fire with
  | false => rw [Engine.machineStep_count p f adv hs ht hp hf]; exact .timing hr hs ht hp hpr
  | true =>
    cases hst : s.state with
    | idle => exact absurd hst hs
    | sendingHigh =>
      rw [Engine.machineStep_fire_high p f adv hst hp hf]
      exact .pulsing (by simpa using hr) (by simp [hst]) (by simp) (by simp) (Engine.startPulse_pPhase_ne_idle _ p)
    | sendingLow =>
      rw [Engine.machineStep_fire_low p f adv hst hp hf]
      exact .pulsing (by simpa using hr) (by simp [hst]) (by simp) (by simp) (Engine.startPulse_pPhase_ne_idle _ p)
    | executing =>
      rw [Engine.machineStep_fire_executing p f adv hst hp hf]
      exact Engine.advanceOp_situation p hr rfl rfl hp hpr

/-- A nibble's pulse goes on, or its end arms the next timer (R134, R136). -/
theorem Engine.machineStep_pulsing_situation {s : Engine} (p : Params) (f : WordFields) (adv : Bool)
    (hr : s.run = true) (hs : s.state = .sendingHigh ∨ s.state = .sendingLow) (ht : s.tArmed = false)
    (htr : s.tRem = 0) (hp : s.pPhase ≠ .idle) : (s.machineStep p f adv).Situation := by
  cases hd : s.pulseDone with
  | false =>
    rw [Engine.machineStep_pulse p f adv hs ht hd]
    exact .pulsing ((s.pulseStep_run p).trans hr) (by simpa using hs)
      ((s.pulseStep_tArmed p).trans ht) ((s.pulseStep_tRem p).trans htr)
      (by simp [Engine.pulseStep_pPhase_idle_iff, hp, hd])
  | true =>
    rcases hs with hst | hst
    · rw [Engine.machineStep_done_high p f adv hst ht hd]
      exact .timing hr (by simp) rfl rfl rfl
    · rw [Engine.machineStep_done_low p f adv hst ht hd]
      exact .timing hr (by simp) rfl rfl rfl

/-- The machine's part of the tick goes from situation to situation. -/
theorem Engine.machineStep_situation {s : Engine} (p : Params) (f : WordFields) (adv : Bool)
    (h : s.Situation) : (s.machineStep p f adv).Situation := by
  cases h with
  | resting hs ht htr hp hpr =>
    rw [Engine.machineStep_resting p f adv hs ht hp]
    split
    next hgo => exact Engine.advanceOp_situation p (Bool.and_eq_true_iff.1 hgo).2 ht htr hp hpr
    next => exact .resting hs ht htr hp hpr
  | directPulse hr hs ht htr hp =>
    rw [Engine.machineStep_direct p f adv hr hs ht]
    exact Engine.pulseStep_direct_situation p hr hs ht htr hp
  | timing hr hs ht hp hpr => exact Engine.machineStep_timing_situation p f adv hr hs ht hp hpr
  | pulsing hr hs ht htr hp => exact Engine.machineStep_pulsing_situation p f adv hr hs ht htr hp

/-- The open direct port leaves the machine at rest or starts a pulse of the direct port (R95, R139). -/
theorem Engine.directStep_situation {e : Engine} (p : Params) (inp : In) (h : e.Situation)
    (hd : e.dirReady = true) : (e.directStep e p inp).Situation := by
  obtain ⟨hr, hp⟩ := Engine.dirReady_iff.1 hd
  obtain ⟨-, kstate, krun, ktArmed, ktRem, kpPhase, kpRem⟩ := e.levelStep_keeps inp
  rw [Engine.directStep_open e p inp hd]
  cases h with
  | resting hs ht htr _ hpr =>
    split
    · exact .directPulse (krun.trans hr) (kstate.trans hs) (ktArmed.trans ht) (ktRem.trans htr) (by simp)
    · exact .resting (kstate.trans hs) (ktArmed.trans ht) (ktRem.trans htr) (kpPhase.trans hp) (kpRem.trans hpr)
  | directPulse _ _ _ _ hp' => exact absurd hp hp'
  | timing hr' _ _ _ _ => simp [hr] at hr'
  | pulsing hr' _ _ _ _ => simp [hr] at hr'

/-- With the direct port open the machine's part does nothing (R28, R130). -/
theorem Engine.machineStep_open {e : Engine} (p : Params) (f : WordFields) (adv : Bool) (h : e.Situation)
    (hd : e.dirReady = true) : e.machineStep p f adv = e := by
  obtain ⟨hr, hp⟩ := Engine.dirReady_iff.1 hd
  cases h with
  | resting hs ht _ _ _ => rw [Engine.machineStep_direct p f adv hr hs ht, Engine.pulseStep_idle hp]
  | directPulse _ _ _ _ hp' => exact absurd hp hp'
  | timing hr' _ _ _ _ => simp [hr] at hr'
  | pulsing hr' _ _ _ _ => simp [hr] at hr'

/-- Machine and direct port together go from situation to situation. -/
theorem Engine.directStep_machineStep_situation {e : Engine} (p : Params) (f : WordFields) (inp : In)
    (h : e.Situation) : (e.directStep (e.machineStep p f inp.advance) p inp).Situation := by
  cases hd : e.dirReady with
  | false => rw [Engine.directStep_closed _ p inp hd]; exact Engine.machineStep_situation p f inp.advance h
  | true => rw [Engine.machineStep_open p f inp.advance h hd]; exact Engine.directStep_situation p inp h hd

/-- Every tick keeps the engine's invariant (R41), whatever the word in flight and the inputs are. -/
theorem Engine.tickWord_inv {e : Engine} (p : Params) (f : WordFields) (inp : In) (h : e.Inv) :
    (e.tickWord p f inp).Inv := by
  obtain ⟨hq, hsit⟩ := Engine.inv_iff_situation.1 h
  refine Engine.inv_iff_situation.2 ⟨tickWord_queueWf hq, ?_⟩
  cases hr : inp.rst with
  | true => rw [Engine.tickWord_rst hr]; exact e.resetState_situation
  | false =>
    rw [Engine.tickWord_live hr, Engine.pushStep_eq]
    cases Engine.directStep_machineStep_situation p f inp hsit with
    | resting hs ht htr hp hpr => exact .resting hs ht htr hp hpr
    | directPulse hr hs ht htr hp => exact .directPulse hr hs ht htr hp
    | timing hr hs ht hp hpr => exact .timing hr hs ht hp hpr
    | pulsing hr hs ht htr hp => exact .pulsing hr hs ht htr hp

/-! ### Every tick keeps EN at the sequencer's high phase -/

/-- The sequencer moves EN with its high phase (R98). -/
theorem Engine.pulseStep_enTracks {s : Engine} (p : Params) (h : s.EnTracks) : (s.pulseStep p).EnTracks := by
  unfold Engine.pulseStep
  cases hp : s.pPhase with
  | idle => exact h
  | setup | high => dsimp only; split <;> simp_all [Engine.EnTracks]

/-- A pulse that starts in P_IDLE has EN idle in its setup phase (R97). -/
theorem Engine.startPulse_enTracks {n : Engine} (p : Params) (h : n.EnTracks) (hp : n.pPhase = .idle) :
    (n.startPulse p).EnTracks := by
  unfold Engine.startPulse
  split <;> simp_all [Engine.EnTracks]

/-- The advance operation touches neither EN nor the sequencer (R131). -/
theorem Engine.advanceOp_enTracks {n : Engine} (p : Params) (h : n.EnTracks) : (n.advanceOp p).EnTracks := by
  cases hq : n.q with
  | nil => rw [Engine.advanceOp_nil hq]; exact h
  | cons w rest => rw [Engine.advanceOp_cons hq]; exact h

/-- The machine's part of the tick keeps EN at the high phase. -/
theorem Engine.machineStep_enTracks {s : Engine} (p : Params) (f : WordFields) (adv : Bool)
    (h : s.Situation) (hen : s.EnTracks) : (s.machineStep p f adv).EnTracks := by
  cases h with
  | resting hs ht _ hp _ =>
    rw [Engine.machineStep_resting p f adv hs ht hp]
    split
    · exact Engine.advanceOp_enTracks p hen
    · exact hen
  | directPulse hr hs ht _ _ =>
    rw [Engine.machineStep_direct p f adv hr hs ht]
    exact Engine.pulseStep_enTracks p hen
  | timing _ hs ht hp _ =>
    cases hf : s.fire with
    | false => rw [Engine.machineStep_count p f adv hs ht hp hf]; exact hen
    | true =>
      cases hst : s.state with
      | idle => exact absurd hst hs
      | sendingHigh =>
        rw [Engine.machineStep_fire_high p f adv hst hp hf]
        exact Engine.startPulse_enTracks p hen hp
      | sendingLow =>
        rw [Engine.machineStep_fire_low p f adv hst hp hf]
        exact Engine.startPulse_enTracks p hen hp
      | executing =>
        rw [Engine.machineStep_fire_executing p f adv hst hp hf]
        exact Engine.advanceOp_enTracks p hen
  | pulsing _ hs ht _ _ =>
    cases hd : s.pulseDone with
    | false => rw [Engine.machineStep_pulse p f adv hs ht hd]; exact Engine.pulseStep_enTracks p hen
    | true =>
      rcases hs with hst | hst
      · rw [Engine.machineStep_done_high p f adv hst ht hd]; simp [Engine.EnTracks]
      · rw [Engine.machineStep_done_low p f adv hst ht hd]; simp [Engine.EnTracks]

/-- `PinWrite` of any signal but 4 leaves EN (R56). -/
theorem Engine.pinWrite_EN {e : Engine} {g : BitVec 3} (b : Bool) (hg : g ≠ 4) :
    (e.pinWrite g b).EN = e.EN := by
  unfold Engine.pinWrite
  repeat' split
  all_goals rfl

/-- A tick that spares EN leaves it to the sequencer (R93, R246). -/
theorem Engine.levelStep_EN (n : Engine) {inp : In} (hi : inp.touchesEn = false) :
    (n.levelStep inp).EN = n.EN := by
  unfold Engine.levelStep
  split
  next hset => exact Engine.pinWrite_EN _ (by simpa [In.touchesEn, hset] using hi)
  next => rfl

/-- The direct part of a tick that spares EN keeps EN at the high phase (R95, R246). -/
theorem Engine.directStep_enTracks {s n : Engine} (p : Params) {inp : In} (hen : n.EnTracks)
    (hi : inp.touchesEn = false) : (s.directStep n p inp).EnTracks := by
  cases hd : s.dirReady with
  | false => rw [Engine.directStep_closed n p inp hd]; exact hen
  | true =>
    obtain ⟨-, -, -, -, -, kpPhase, -⟩ := n.levelStep_keeps inp
    rw [Engine.directStep_open n p inp hd]
    split
    · simp [Engine.EnTracks]
    · simpa [Engine.EnTracks, n.levelStep_EN hi, kpPhase] using hen

/-- A tick that spares EN keeps EN asserted exactly in the high phase (R41 f). -/
theorem Engine.tickWord_enTracks {e : Engine} (p : Params) (f : WordFields) {inp : In} (h : e.Inv)
    (hen : e.EnTracks) (hi : inp.touchesEn = false) : (e.tickWord p f inp).EnTracks := by
  obtain ⟨-, hsit⟩ := Engine.inv_iff_situation.1 h
  cases hr : inp.rst with
  | true => rw [Engine.tickWord_rst hr]; simp [Engine.EnTracks]
  | false =>
    rw [Engine.tickWord_live hr, Engine.pushStep_eq]
    exact Engine.directStep_enTracks p (Engine.machineStep_enTracks p f inp.advance hsit hen) hi

end Sys2Proof.Machine

namespace Sys2Proof.Machine

/-! ## A step is a tick -/

/-- The cursor-set pattern of a byte's low bits is the byte, where its bit 7 is set (R161). -/
theorem cursorOpcode_lowBits : ∀ o : Byte, o.getLsbD 7 = true → (1#1 ++ o.extractLsb' 0 7 : Byte) = o := by
  decide

/-- A word decodes to an instruction with the word's own fields (R75, R86). -/
theorem wordOf_decodeWord (w : Word) : wordOf (decodeWord w) = some (fieldsOf w) := by
  generalize hf : fieldsOf w = f
  obtain ⟨isData, delay, opcode⟩ := f
  unfold decodeWord
  rw [hf]
  dsimp only
  repeat' split
  all_goals simp_all [wordOf, cursorOpcode_lowBits]

/-- The meaning of a decoded word is one tick with the word's fields. -/
theorem exec_decodeWord (w : Word) (s : State) :
    exec (decodeWord w) s = .next (s.wordTick (fieldsOf w)) :=
  exec_wordOf s (wordOf_decodeWord w)

/-- In Idle a tick does not look at the word in flight (R129). -/
theorem Engine.tickWord_idle {e : Engine} (p : Params) (f g : WordFields) (inp : In) (h : e.state = .idle) :
    e.tickWord p f inp = e.tickWord p g inp := by
  simp [Engine.tickWord, Engine.machineStep, Engine.transmit, h]

/-- The engine fetches in Idle only (R129). -/
theorem Engine.state_of_fetch {e : Engine} {w : Word} (h : e.fetch = some w) : e.state = .idle := by
  unfold Engine.fetch at h
  cases hs : e.state <;> simp [hs] at h ⊢

/-- The tick of the word that a trigger fetches is the tick of the trigger. -/
theorem State.wordTick_fetch {s : State} {w : Word} (h : s.eng.fetch = some w) :
    s.wordTick (fieldsOf w) = s.clock In.trigger := by
  unfold State.wordTick State.clock Engine.tick
  rw [Engine.tickWord_idle s.cfg (fieldsOf w) (fieldsOf s.eng.active) In.trigger (Engine.state_of_fetch h)]

/-- The instruction that runs for a host's instruction does what that instruction does (R25, R129). -/
theorem exec_issued {s u : State} (i : Instr) (h : u.eng = s.eng) : exec (s.issued i) u = exec i u := by
  unfold State.issued
  split
  next hi =>
    subst hi
    cases hf : s.eng.fetch with
    | none => rfl
    | some w =>
      dsimp only
      rw [exec_decodeWord, State.wordTick_fetch (h ▸ hf)]
      rfl
  next => rfl

/-- A tick with no request is a tick without inputs or, for a word in flight, with a trigger that is lost
or merges with the expiry (R130, R137). -/
theorem State.quietStep_eq (s : State) :
    ∃ inp : In, s.quietStep = .next (s.clock inp) ∧ inp.touchesEn = false := by
  cases hf : s.eng.inFlight with
  | none => exact ⟨In.quiet, by simp [State.quietStep, hf], rfl⟩
  | some w =>
    obtain rfl : w = s.eng.active := by
      unfold Engine.inFlight at hf
      cases hs : s.eng.state <;> simp [hs] at hf <;> exact hf.symm
    refine ⟨In.trigger, ?_, rfl⟩
    simp only [State.quietStep, hf, exec_decodeWord]
    rfl

/-- The lines of a program that spare EN (R246). -/
abbrev sparesEn (lines : List Line) : Prop := ∀ l ∈ lines, l.touchesEn = false

/-- `t` is `s` after one tick under some input levels, the host side aside; where `spares` holds, the tick and
the program left spare EN (R246). -/
def State.TicksTo (s t : State) (spares : Prop) : Prop :=
  ∃ (inp : In) (prod : Producer), t = ({ s with prod := prod } : State).clock inp
    ∧ (spares → inp.touchesEn = false ∧ prod.SparesEn)

/-- What spares EN under a premise does so under a stronger one. -/
theorem State.TicksTo.imp {s t : State} {P Q : Prop} (h : s.TicksTo t P) (hQ : Q → P) : s.TicksTo t Q := by
  obtain ⟨inp, prod, ht, hs⟩ := h
  exact ⟨inp, prod, ht, hs ∘ hQ⟩

/-- The tick is one of any state that differs in the host side alone. -/
theorem State.TicksTo.of_prod {s t : State} {prod : Producer} {P : Prop}
    (h : State.TicksTo { s with prod := prod } t P) : s.TicksTo t P := h

/-- A tick that leaves the host side as it is. -/
theorem State.clock_ticksTo (s : State) {inp : In} {P : Prop}
    (hi : P → inp.touchesEn = false ∧ s.prod.SparesEn) : s.TicksTo (s.clock inp) P :=
  ⟨inp, s.prod, rfl, hi⟩

/-! The lines that spare EN whatever their operands (R81, R83, R93). -/

@[simp] theorem Line.touchesEn_nib (v : BitVec 5) : (Line.op (.nib v)).touchesEn = false := rfl
@[simp] theorem Line.touchesEn_push (w : Word) : (Line.op (.push w)).touchesEn = false := rfl
@[simp] theorem Line.touchesEn_advance : (Line.op .advance).touchesEn = false := rfl
@[simp] theorem Line.touchesEn_setRun : (Line.op .setRun).touchesEn = false := rfl
@[simp] theorem Line.touchesEn_wait (n : Nat) : (Line.wait n).touchesEn = false := rfl
@[simp] theorem Line.touchesEn_waitIdle : Line.waitIdle.touchesEn = false := rfl
@[simp] theorem Line.touchesEn_setCursor (a : Addr) : (Line.setCursor a).touchesEn = false := rfl

/-- A held line is not new to the program (R83). -/
theorem heldProgram_sparesEn {e : Engine} {h : HostWord} {rest : List Line}
    (hh : (portsOf h).touchesEn = false) (hrest : sparesEn rest) : sparesEn (heldProgram e h rest) := by
  unfold heldProgram
  split
  · exact hrest
  · exact List.forall_mem_cons.2 ⟨hh, hrest⟩

/-- A macro whose expansion spares EN is one tick that does (R84). -/
theorem State.runMacro_ticksTo (s : State) (cursor : Addr) {first : HostWord} {more : List Line}
    (hfirst : (portsOf first).touchesEn = false) (hmore : sparesEn more) :
    s.TicksTo (({ s with prod := { s.prod with cursor := cursor } } : State).runMacro first more)
      s.prod.SparesEn :=
  ⟨portsOf first, _, rfl, fun hs =>
    ⟨hfirst, heldProgram_sparesEn hfirst (List.forall_mem_append.2 ⟨hmore, hs⟩)⟩⟩

/-- `SETLEVEL` of any signal but 4 spares EN (R93). -/
theorem setLevelLine_touchesEn : ∀ (g : BitVec 3) (b : Bool), g ≠ 4 →
    (portsOf (setLevelLine g b)).touchesEn = false := by decide

/-- The expansion of `SEND_NIBBLE` sets the signals 5 and 0 to 3 and pulses: it spares EN (R99). -/
theorem sendNibbleRest_sparesEn (n : Nibble) : sparesEn (sendNibbleRest n) := by
  have hset (g : BitVec 3) (b : Bool) (hg : g ≠ 4) : (Line.op (setLevelLine g b)).touchesEn = false :=
    setLevelLine_touchesEn g b hg
  have hpulse : (Line.op pulseLine).touchesEn = false := by decide
  simp [sparesEn, sendNibbleRest, hset, hpulse]

/-- The expansion of `initialize()` spares EN (R171). -/
theorem initializeRest_sparesEn (p : Params) : sparesEn (initializeRest p) := by
  simp [sparesEn, initializeRest, waitAfterPulse]

/-- `SEND_NIBBLE` is one tick that spares EN (R99). -/
theorem State.startNibble_ticksTo (s : State) (n : Nibble) : s.TicksTo (s.startNibble n) s.prod.SparesEn :=
  s.runMacro_ticksTo s.prod.cursor (first := setLevelLine 5 false) (setLevelLine_touchesEn 5 false (by decide))
    (sendNibbleRest_sparesEn n)

/-- A direct-port line runs as the tick with its own levels, or with those of `PULSE` (R79). -/
theorem exec_decodeDirect {v : BitVec 6} {i : Instr} (hd : decodeDirect v = .ok i) (s : State) :
    ∃ t, exec i s = .next t ∧ s.TicksTo t ((portsOf (.dp v)).touchesEn = false ∧ s.prod.SparesEn) := by
  unfold decodeDirect at hd
  unfold portsOf
  split at hd
  next => exact nomatch hd
  all_goals
    obtain rfl := Except.ok.inj hd
    refine ⟨_, rfl, s.clock_ticksTo fun ⟨hv, hs⟩ => ⟨?_, hs⟩⟩
  · simp_all [In.touchesEn, In.direct]
  · rfl
  · simp_all [In.touchesEn, In.direct]

/-- A nibble line runs as `SEND_NIBBLE` of its nibble (R80, R99). -/
theorem exec_decodeNibble {v : BitVec 5} {i : Instr} (hd : decodeNibble v = .ok i) (s : State) :
    ∃ n, exec i s = .next (s.startNibble n) := by
  unfold decodeNibble at hd
  repeat' split at hd
  next => exact nomatch hd
  all_goals
    obtain rfl := Except.ok.inj hd
    exact ⟨_, rfl⟩

/-- `writeCharacter` is one tick that spares EN, whatever branch its byte selects (R188 to R190). -/
theorem exec_decodeChar (c : Byte) (s : State) :
    ∃ t, exec (decodeChar c) s = .next t ∧ s.TicksTo t s.prod.SparesEn := by
  unfold decodeChar
  split
  · exact ⟨_, rfl, s.runMacro_ticksTo s.prod.cursor rfl (by simp [sparesEn])⟩
  split
  · unfold exec execWriteCharBackspace
    dsimp only
    split
    · exact ⟨_, rfl, s.runMacro_ticksTo s.prod.cursor rfl (by simp [sparesEn])⟩
    · exact ⟨_, rfl, s.runMacro_ticksTo _ rfl (by simp [sparesEn])⟩
  · exact ⟨_, rfl, s.runMacro_ticksTo s.prod.cursor rfl (by simp [sparesEn])⟩

/-- Every host operation that decodes runs as one tick, which spares EN where the operation's levels do. -/
theorem exec_decodeHost {h : HostWord} {i : Instr} (hd : decodeHost h = .ok i) (s : State) :
    ∃ t, exec i s = .next t ∧ s.TicksTo t ((portsOf h).touchesEn = false ∧ s.prod.SparesEn) := by
  cases h with
  | dp v => exact exec_decodeDirect hd s
  | nib v =>
    obtain ⟨n, hn⟩ := exec_decodeNibble hd s
    exact ⟨_, hn, (s.startNibble_ticksTo n).imp And.right⟩
  | char c =>
    obtain rfl := Except.ok.inj hd
    obtain ⟨t, ht, htick⟩ := exec_decodeChar c s
    exact ⟨t, ht, htick.imp And.right⟩
  | initCall =>
    obtain rfl := Except.ok.inj hd
    exact ⟨_, rfl, (s.runMacro_ticksTo s.prod.cursor rfl (initializeRest_sparesEn s.cfg)).imp And.right⟩
  | push w | advance | setRun | reset =>
    obtain rfl := Except.ok.inj hd
    exact ⟨_, rfl, s.clock_ticksTo id⟩

/-- A tick with no request spares EN. -/
theorem State.quietStep_ticksTo {s t : State} (h : s.quietStep = .next t) : s.TicksTo t s.prod.SparesEn := by
  obtain ⟨inp, hinp, hi⟩ := s.quietStep_eq
  obtain rfl := Host.Outcome.next.inj (hinp.symm.trans h)
  exact s.clock_ticksTo fun hs => ⟨hi, hs⟩

/-- The line at the head of the program takes one tick, which spares EN where the program does (R246). -/
theorem State.lineStep_ticksTo {s t : State} (h : s.lineStep = .next t) : s.TicksTo t s.prod.SparesEn := by
  unfold State.lineStep at h
  split at h
  next op rest hprog =>
    split at h
    next i hd =>
      rw [exec_issued i (s.withProgram_eng _)] at h
      obtain ⟨u, hu, htick⟩ := exec_decodeHost hd (s.withProgram (heldProgram s.eng op rest))
      obtain rfl := Host.Outcome.next.inj (hu.symm.trans h)
      refine htick.of_prod.imp fun hs => ?_
      obtain ⟨hop, hrest⟩ := List.forall_mem_cons.1 (hprog ▸ hs : sparesEn (.op op :: rest))
      exact ⟨hop, heldProgram_sparesEn hop hrest⟩
    next =>
      refine (State.quietStep_ticksTo h).of_prod.imp fun hs => ?_
      exact (List.forall_mem_cons.1 (hprog ▸ hs : sparesEn (.op op :: rest))).2
    next => exact nomatch h
  next inp rest hprog =>
    obtain rfl := Host.Outcome.next.inj h
    exact (State.clock_ticksTo (s.withProgram rest) id).of_prod.imp fun hs =>
      List.forall_mem_cons.1 (hprog ▸ hs : sparesEn (.ports inp :: rest))
  next n rest hprog =>
    refine (State.quietStep_ticksTo h).of_prod.imp fun hs => ?_
    obtain ⟨-, hrest⟩ := List.forall_mem_cons.1 (hprog ▸ hs : sparesEn (.wait (n + 1) :: rest))
    exact List.forall_mem_cons.2 ⟨rfl, hrest⟩
  next => exact State.quietStep_ticksTo h

/-- Every step is one tick, which spares EN where the host's program does (R12, R246). -/
theorem step_ticksTo {s t : State} (h : step s = .next t) : s.TicksTo t s.prod.SparesEn :=
  (State.lineStep_ticksTo h).of_prod.imp fun hs => settleLines_forall _ hs

/-- Settles O4: every step is a tick, and every tick goes from situation to situation. -/
theorem stepKeepsTheEngineInvariant : Obligations.StepKeepsTheEngineInvariant := by
  intro s t hinv hstep
  obtain ⟨inp, prod, rfl, -⟩ := step_ticksTo hstep
  exact Engine.tickWord_inv s.cfg _ inp hinv

/-- Settles O5: a step of a host that spares EN is a tick that spares EN, and such a tick leaves EN to the
sequencer. -/
theorem stepKeepsEnableTrackingThePulse : Obligations.StepKeepsEnableTrackingThePulse := by
  intro s t hinv hspares hen hstep
  obtain ⟨inp, prod, rfl, hkeeps⟩ := step_ticksTo hstep
  obtain ⟨hi, hprod⟩ := hkeeps hspares
  exact ⟨Engine.tickWord_enTracks s.cfg _ hinv hen hi, hprod⟩

end Sys2Proof.Machine

namespace Sys2Proof.Machine

/-! ## Run mode, `active` and the queue -/

/-- Settles O31: in run mode the tick is the machine's part and the push, which look at neither (R28). -/
theorem runModeClosesTheDirectPort : Obligations.RunModeClosesTheDirectPort := by
  intro p e inp hrun hrst
  constructor
  · unfold Engine.tick
    rw [Engine.tickWord_run hrst, hrun, Bool.true_or]
  · unfold Engine.tick
    exact (Engine.tickWord_runMode hrst hrun).trans (Engine.tickWord_runMode
      (inp := { inp with dirSet := false, dirPulse := false, setRun := false }) hrst hrun).symm

/-- What a tick takes is the head of the queue, where the advance operation runs (R131). -/
theorem Engine.poppedNow_eq (e : Engine) {inp : In} (h : inp.rst = false) :
    e.poppedNow inp = if e.wantAdvance inp.advance then e.q.take 1 else [] := by
  simp [Engine.poppedNow, h]

/-- Settles O36: the tick writes `active` with the word it takes (R22). -/
theorem activeChangesOnlyByDequeue : Obligations.ActiveChangesOnlyByDequeue := by
  intro p e inp hrst
  unfold Engine.tick
  rw [Engine.tickWord_active hrst, e.poppedNow_eq hrst]
  split
  · cases e.q <;> rfl
  · rfl

/-- The queue after a tick: what the pop leaves, then the word accepted (R115). -/
theorem Engine.tick_q (p : Params) (e : Engine) {inp : In} (h : inp.rst = false) :
    (e.tick p inp).q = (if e.wantAdvance inp.advance then e.q.drop 1 else e.q) ++ e.acceptedNow inp := by
  unfold Engine.tick
  rw [Engine.tickWord_q h]
  cases hv : inp.pushValid <;> simp [queueNext, Engine.acceptedNow, Engine.pushReady, h, hv]

/-- In one tick the words taken and held after it are the words held before and accepted, in order (R114,
R115). -/
theorem Engine.tick_conserves (p : Params) (e : Engine) {inp : In} (h : inp.rst = false) :
    e.poppedNow inp ++ (e.tick p inp).q = e.q ++ e.acceptedNow inp := by
  rw [e.tick_q p h, e.poppedNow_eq h]
  split
  · rw [← List.append_assoc, List.take_append_drop]
  · rfl

/-- The queue's length over one tick. -/
theorem Engine.tick_q_length (p : Params) (e : Engine) {inp : In} (h : inp.rst = false) :
    (e.poppedNow inp).length + (e.tick p inp).q.length = e.q.length + (e.acceptedNow inp).length := by
  simpa using congrArg List.length (e.tick_conserves p h)

end Sys2Proof.Machine

namespace Sys2Proof.Machine

/-! ## The ring buffer -/

/-- The next pointer is one on, modulo the ten slots (R40). -/
theorem RingBuffer.bump_val : ∀ k : Fin 10, (RingBuffer.bump k).val = (k.val + 1) % 10 := by decide

theorem RingBuffer.queue_length (r : RingBuffer) : r.queue.length = r.cnt := by simp [RingBuffer.queue]

/-- The ring after its oldest word is taken. -/
def RingBuffer.popped (r : RingBuffer) : RingBuffer := { r with rd := RingBuffer.bump r.rd, cnt := r.cnt - 1 }

/-- The ring after `w` is stored at the write pointer. -/
def RingBuffer.pushed (r : RingBuffer) (w : Word) : RingBuffer :=
  { r with mem := r.mem.set r.wr w, wr := RingBuffer.bump r.wr, cnt := r.cnt + 1 }

/-- The pop's part of a tick: an empty ring has nothing to take (R113). -/
def RingBuffer.popStep (r : RingBuffer) (pop : Bool) : RingBuffer :=
  if pop && decide (0 < r.cnt) then r.popped else r

/-- A tick's push follows its pop and is judged against the count before it (R115). -/
theorem RingBuffer.tick_none (r : RingBuffer) (pop : Bool) : r.tick pop none = r.popStep pop := by
  unfold RingBuffer.tick RingBuffer.popStep RingBuffer.popped
  cases pop && decide (0 < r.cnt) <;> rfl

theorem RingBuffer.tick_some (r : RingBuffer) (pop : Bool) (w : Word) :
    r.tick pop (some w) = if r.cnt < 10 then (r.popStep pop).pushed w else r.popStep pop := by
  unfold RingBuffer.tick RingBuffer.popStep RingBuffer.popped RingBuffer.pushed
  by_cases hc : r.cnt < 10 <;> cases pop && decide (0 < r.cnt) <;> simp [hc]

theorem RingBuffer.popped_wf {r : RingBuffer} (h : r.wf) (hc : 0 < r.cnt) : r.popped.wf := by
  obtain ⟨hle, hwr⟩ := h
  refine ⟨by simp only [RingBuffer.popped]; omega, ?_⟩
  simp only [RingBuffer.popped, RingBuffer.bump_val, hwr]
  omega

theorem RingBuffer.popped_queue {r : RingBuffer} (hc : 0 < r.cnt) : r.popped.queue = r.queue.drop 1 := by
  obtain ⟨n, hn⟩ : ∃ n, r.cnt = n + 1 := ⟨r.cnt - 1, by omega⟩
  have hslot (i : Nat) : ((r.rd.val + 1) % 10 + i) % 10 = (r.rd.val + (i + 1)) % 10 := by omega
  simp [RingBuffer.queue, RingBuffer.popped, RingBuffer.bump_val, hn, List.range_succ_eq_map, hslot]

theorem RingBuffer.pushed_wf {r : RingBuffer} (w : Word) (h : r.wf) (hc : r.cnt < 10) : (r.pushed w).wf := by
  obtain ⟨-, hwr⟩ := h
  refine ⟨hc, ?_⟩
  simp only [RingBuffer.pushed, RingBuffer.bump_val, hwr]
  omega

theorem RingBuffer.pushed_queue {r : RingBuffer} (w : Word) (h : r.wf) (hc : r.cnt < 10) :
    (r.pushed w).queue = r.queue ++ [w] := by
  obtain ⟨-, hwr⟩ := h
  have hnew : (r.mem.set r.wr w)[(r.rd.val + r.cnt) % 10]'(Nat.mod_lt _ (by decide)) = w := by
    simp [← hwr]
  have hold : ∀ i ∈ List.range r.cnt,
      (r.mem.set r.wr w)[(r.rd.val + i) % 10]'(Nat.mod_lt _ (by decide))
        = r.mem[(r.rd.val + i) % 10]'(Nat.mod_lt _ (by decide)) := fun i hi => by
    rw [List.mem_range] at hi
    exact Vector.getElem_set_ne _ _ (by omega)
  simp only [RingBuffer.queue, RingBuffer.pushed, List.range_succ, List.map_append, List.map_cons, List.map_nil,
    hnew, List.map_congr_left hold]

theorem RingBuffer.popStep_cnt_le (r : RingBuffer) (pop : Bool) : (r.popStep pop).cnt ≤ r.cnt := by
  unfold RingBuffer.popStep
  split
  · exact Nat.sub_le _ _
  · exact Nat.le_refl _

theorem RingBuffer.popStep_wf {r : RingBuffer} (pop : Bool) (h : r.wf) : (r.popStep pop).wf := by
  unfold RingBuffer.popStep
  split
  next hgo => exact RingBuffer.popped_wf h (of_decide_eq_true (Bool.and_eq_true_iff.1 hgo).2)
  next => exact h

theorem RingBuffer.popStep_queue (r : RingBuffer) (pop : Bool) :
    (r.popStep pop).queue = if pop then r.queue.drop 1 else r.queue := by
  unfold RingBuffer.popStep
  cases pop with
  | false => rfl
  | true =>
    by_cases hc : 0 < r.cnt
    · simp only [Bool.true_and, hc, decide_true, if_true, RingBuffer.popped_queue]
    · have hempty : r.queue = [] := List.eq_nil_of_length_eq_zero (by rw [r.queue_length]; omega)
      simp [hc, hempty]

/-- The word at the read pointer is the oldest of the sequence (R40). -/
theorem RingBuffer.head_eq (r : RingBuffer) : r.head = r.queue.head? := by
  unfold RingBuffer.head RingBuffer.queue
  cases r.cnt with
  | zero => rfl
  | succ n => simp [List.range_succ_eq_map, Nat.mod_eq_of_lt r.rd.isLt]

/-- Every tick keeps the ring's form. -/
theorem RingBuffer.tick_wf {r : RingBuffer} (pop : Bool) (push : Option Word) (h : r.wf) :
    (r.tick pop push).wf := by
  have hpop := RingBuffer.popStep_wf pop h
  cases push with
  | none => rwa [r.tick_none]
  | some w =>
    rw [r.tick_some]
    split
    next hc => exact RingBuffer.pushed_wf w hpop ((r.popStep_cnt_le pop).trans_lt hc)
    next => exact hpop

/-- Every tick moves the ring's sequence as the queue moves (R40, R115). -/
theorem RingBuffer.tick_queue {r : RingBuffer} (pop : Bool) (push : Option Word) (h : r.wf) :
    (r.tick pop push).queue = queueNext r.queue pop push := by
  unfold queueNext
  rw [r.queue_length, Config.queueDepth, ← r.popStep_queue pop]
  cases push with
  | none => rw [r.tick_none, List.append_nil]
  | some w =>
    rw [r.tick_some]
    dsimp only
    split
    next hc =>
      exact RingBuffer.pushed_queue w (RingBuffer.popStep_wf pop h) ((r.popStep_cnt_le pop).trans_lt hc)
    next => rw [List.append_nil]

/-- Settles O35: a tick of the ring is a pop followed by a push, and each moves the abstract sequence as the
queue moves. -/
theorem ringBufferRefinesTheQueue : Obligations.RingBufferRefinesTheQueue :=
  ⟨fun r pop push h =>
    ⟨RingBuffer.tick_wf pop push h, RingBuffer.tick_queue pop push h, r.queue_length, r.head_eq⟩,
   fun _ => ⟨⟨Nat.zero_le _, rfl⟩, rfl⟩⟩

end Sys2Proof.Machine

namespace Sys2Proof.Machine

/-! ## Reset -/

/-- The reset state has the values and the outputs of R39. -/
theorem Engine.resetState_isReset (e : Engine) : e.resetState.IsReset := by
  simp [Engine.IsReset, Engine.pushReady, Engine.empty, Engine.isIdle, Engine.dirReady, Config.queueDepth]

/-- Settles O1: reset dominates, and the state it gives is the reset state. -/
theorem resetGivesTheResetState : Obligations.ResetGivesTheResetState := by
  have htick (e : Engine) (p : Params) (inp : In) (h : inp.rst = true) : e.tick p inp = e.resetState :=
    Engine.tickWord_rst h
  refine ⟨fun s => ⟨s.clock In.hardReset, rfl, ?_, ?_⟩,
    fun e p inp h => htick e p inp h ▸ e.resetState_isReset, ?_, rfl⟩
  · rw [State.clock_eng, htick _ _ _ rfl]
    exact s.eng.resetState_isReset
  · rw [State.clock_events, htick _ _ _ rfl]
    simp [latchOf]
  · decide

end Sys2Proof.Machine

namespace Sys2Proof.Machine

/-! ## The status outputs -/

theorem Engine.isIdle_iff {e : Engine} : e.isIdle = true ↔ e.state = .idle := by simp [Engine.isIdle]

theorem Engine.empty_iff {e : Engine} : e.empty = true ↔ e.q = [] := by simp [Engine.empty]

/-- The phase after a tick with an advance operation (R131). -/
theorem Engine.tickWord_state_advance {s : Engine} {p : Params} {f : WordFields} {inp : In}
    (h : inp.rst = false) (hw : s.wantAdvance inp.advance = true) :
    (s.tickWord p f inp).state = if s.q = [] then .idle else .sendingHigh := by
  rw [Engine.tickWord_live h, Engine.pushStep_state, Engine.directStep_state]
  simp [Engine.machineStep, hw, Engine.advanceOp_state]

/-- Without an advance operation a tick neither enters nor leaves Idle (R145). -/
theorem Engine.tickWord_idle_iff {s : Engine} {p : Params} {f : WordFields} {inp : In}
    (h : inp.rst = false) (hw : s.wantAdvance inp.advance = false) :
    (s.tickWord p f inp).state = .idle ↔ s.state = .idle := by
  rw [Engine.tickWord_live h, Engine.pushStep_state, Engine.directStep_state]
  simp only [Engine.machineStep, hw, Bool.false_eq_true, if_false]
  unfold Engine.transmit
  unfold Engine.wantAdvance at hw
  cases hs : s.state with
  | idle => simp [hs]
  | executing => simp [hs] at hw; simp [hs, hw]
  | sendingHigh | sendingLow =>
    dsimp only
    split
    · simp [hs]
    split <;> simp [hs]

/-- The enable line stands at the asserted level exactly where EN is asserted (R100). -/
theorem Engine.enLine_eq_enActive_iff (p : Params) (e : Engine) : e.enLine p = p.enActive ↔ e.EN = true := by
  unfold Engine.enLine
  cases p.enActive <;> simp

/-- Settles O40: each output is its definition. -/
theorem outputsAreFunctionsOfTheState : Obligations.OutputsAreFunctionsOfTheState := fun p e =>
  ⟨Engine.pushReady_iff, Engine.empty_iff.trans List.length_eq_zero_iff.symm, Engine.isIdle_iff,
    Engine.dirReady_iff, rfl, rfl, rfl, e.enLine_eq_enActive_iff p⟩

/-- Under the invariant direct mode has no timer at work: a tick moves the sequencer alone (R26, R28). -/
theorem Engine.machineStep_directMode {e : Engine} (p : Params) (f : WordFields) (adv : Bool) (h : e.Inv)
    (hr : e.run = false) : e.machineStep p f adv = e.pulseStep p := by
  obtain ⟨-, hdirect, -⟩ := h
  obtain ⟨hs, ht⟩ := hdirect hr
  exact Engine.machineStep_direct p f adv hr hs ht

section
variable {p : Params} {e : Engine} {inp : In}

/-- A full queue has room again only after a pop (R38). -/
theorem Engine.pushReady_rises (hrst : inp.rst = false) (h : e.pushReady = false)
    (h' : (e.tick p inp).pushReady = true) : e.poppedNow inp ≠ [] := by
  intro hpop
  have hlen := e.tick_q_length p hrst
  rw [Engine.pushReady_false_iff] at h
  rw [Engine.pushReady_iff] at h'
  rw [hpop, List.length_nil] at hlen
  omega

/-- A queue with room fills up only by an accepted push (R38). -/
theorem Engine.pushReady_falls (hrst : inp.rst = false) (h : e.pushReady = true)
    (h' : (e.tick p inp).pushReady = false) : e.acceptedNow inp ≠ [] := by
  intro hacc
  have hlen := e.tick_q_length p hrst
  rw [Engine.pushReady_iff] at h
  rw [Engine.pushReady_false_iff] at h'
  rw [hacc, List.length_nil] at hlen
  omega

/-- The queue becomes empty only when a pop takes the whole of it (R38). -/
theorem Engine.empty_rises (hrst : inp.rst = false) (h' : (e.tick p inp).empty = true) :
    e.poppedNow inp = e.q := by
  have hcons := e.tick_conserves p hrst
  rw [Engine.empty_iff.1 h', List.append_nil] at hcons
  have hle : (e.poppedNow inp).length ≤ e.q.length := by
    rw [e.poppedNow_eq hrst]
    split
    · exact List.length_take_le' _ _
    · exact Nat.zero_le _
  have hacc : e.acceptedNow inp = [] := by
    rw [hcons, List.length_append] at hle
    exact List.eq_nil_of_length_eq_zero (by omega)
  rw [hcons, hacc, List.append_nil]

/-- An empty queue is filled only by an accepted push (R38). -/
theorem Engine.empty_falls (hrst : inp.rst = false) (h : e.empty = true)
    (h' : (e.tick p inp).empty = false) : e.acceptedNow inp ≠ [] := by
  intro hacc
  have hcons := e.tick_conserves p hrst
  rw [Engine.empty_iff.1 h, hacc] at hcons
  have hempty := Engine.empty_iff.2 (List.append_eq_nil_iff.1 hcons).2
  exact absurd (hempty.symm.trans h') (by decide)

/-- Idle is entered only from Executing, at the expiry, with nothing queued (R38, R137). -/
theorem Engine.isIdle_rises (hrst : inp.rst = false) (h : e.isIdle = false)
    (h' : (e.tick p inp).isIdle = true) : e.state = .executing ∧ e.fire = true ∧ e.q = [] := by
  have hs : e.state ≠ .idle := by simpa [Engine.isIdle] using h
  rw [Engine.isIdle_iff] at h'
  cases hw : e.wantAdvance inp.advance with
  | false => exact absurd ((Engine.tickWord_idle_iff hrst hw).1 h') hs
  | true =>
    have hq : e.q = [] := by
      by_contra hq
      exact absurd ((Engine.tickWord_state_advance hrst hw).symm.trans h') (by simp [hq])
    unfold Engine.wantAdvance at hw
    cases hst : e.state with
    | idle => exact absurd hst hs
    | sendingHigh | sendingLow => simp [hst] at hw
    | executing => exact ⟨rfl, by simpa [hst] using hw, hq⟩

/-- Idle is left only by a dequeue (R38, R131). -/
theorem Engine.isIdle_falls (hrst : inp.rst = false) (h : e.isIdle = true)
    (h' : (e.tick p inp).isIdle = false) : e.poppedNow inp ≠ [] := by
  have hs' : (e.tick p inp).state ≠ .idle := by simpa [Engine.isIdle] using h'
  cases hw : e.wantAdvance inp.advance with
  | false => exact absurd ((Engine.tickWord_idle_iff hrst hw).2 (Engine.isIdle_iff.1 h)) hs'
  | true =>
    have hq : e.q ≠ [] := fun hq => hs' (by
      unfold Engine.tick
      rw [Engine.tickWord_state_advance hrst hw, if_pos hq])
    simp [e.poppedNow_eq hrst, hw, hq]

/-- Run mode is entered only by an accepted `set_run` (R38, R139). -/
theorem Engine.run_rises (hrst : inp.rst = false) (h : e.run = false) (h' : (e.tick p inp).run = true) :
    inp.setRun = true ∧ inp.dirPulse = false ∧ e.dirReady = true := by
  unfold Engine.tick at h'
  rw [Engine.tickWord_run hrst, h, Bool.false_or] at h'
  simp only [Bool.and_eq_true, Bool.not_eq_true'] at h'
  obtain ⟨⟨hready, hpulse⟩, hset⟩ := h'
  exact ⟨hset, hpulse, hready⟩

/-- A closed direct port opens only when a direct pulse ends: run mode is not left (R38, R28). -/
theorem Engine.dirReady_rises (hrst : inp.rst = false) (hinv : e.Inv) (h : e.dirReady = false)
    (h' : (e.tick p inp).dirReady = true) : e.run = false ∧ e.pulseDone = true := by
  obtain ⟨hrun', hpulse'⟩ := Engine.dirReady_iff.1 h'
  unfold Engine.tick at hrun' hpulse'
  rw [Engine.tickWord_run hrst, h, Bool.false_and, Bool.false_and, Bool.or_false] at hrun'
  rw [Engine.tickWord_live hrst, Engine.directStep_closed _ p inp h, Engine.pushStep_pPhase,
    Engine.machineStep_directMode p _ inp.advance hinv hrun', Engine.pulseStep_pPhase_idle_iff] at hpulse'
  refine ⟨hrun', hpulse'.resolve_left fun hp => ?_⟩
  exact absurd (h.symm.trans (Engine.dirReady_iff.2 ⟨hrun', hp⟩)) (by decide)

/-- An open direct port closes only by a direct pulse or run mode (R38). -/
theorem Engine.dirReady_falls (hrst : inp.rst = false) (hinv : e.Inv) (h : e.dirReady = true)
    (h' : (e.tick p inp).dirReady = false) : inp.dirPulse = true ∨ (e.tick p inp).run = true := by
  obtain ⟨-, hp⟩ := Engine.dirReady_iff.1 h
  obtain ⟨-, -, -, -, -, kpPhase, -⟩ := e.levelStep_keeps inp
  cases hpulse : inp.dirPulse with
  | true => exact .inl rfl
  | false =>
    have hphase : (e.tick p inp).pPhase = .idle := by
      rw [Engine.tick_open p inp hinv h hrst, Engine.pushStep_pPhase, Engine.directStep_open e p inp h, hpulse]
      exact kpPhase.trans hp
    right
    by_contra hrun
    rw [Bool.not_eq_true] at hrun
    exact absurd (h'.symm.trans (Engine.dirReady_iff.2 ⟨hrun, hphase⟩)) (by decide)

end

/-- Settles O41, output by output. -/
theorem statusOutputsMoveOnlyAsListed : Obligations.StatusOutputsMoveOnlyAsListed := by
  intro p e inp hinv hrst
  exact ⟨Engine.pushReady_rises hrst, Engine.pushReady_falls hrst, fun _ => Engine.empty_rises hrst,
    Engine.empty_falls hrst, Engine.isIdle_rises hrst, Engine.isIdle_falls hrst,
    Engine.dirReady_rises hrst hinv, Engine.dirReady_falls hrst hinv, Engine.run_rises hrst⟩

end Sys2Proof.Machine

namespace Sys2Proof.Machine

/-! # The display lines in run mode, and the drain of the queue (20_memory) -/

/-! ## The lines RS and D -/

@[simp] theorem Engine.pulseStep_RS (s : Engine) (p : Params) : (s.pulseStep p).RS = s.RS := by
  rw [s.pulseStep_frame p]
@[simp] theorem Engine.pulseStep_D (s : Engine) (p : Params) : (s.pulseStep p).D = s.D := by
  rw [s.pulseStep_frame p]

/-- The advance operation leaves the lines as they are (R131). -/
theorem Engine.advanceOp_lines (n : Engine) (p : Params) :
    (n.advanceOp p).RS = n.RS ∧ (n.advanceOp p).D = n.D := by
  cases hq : n.q with
  | nil => rw [Engine.advanceOp_nil hq]; exact ⟨rfl, rfl⟩
  | cons w rest => rw [Engine.advanceOp_cons hq]; exact ⟨rfl, rfl⟩

/-- Only the timer's expiry while sending drives the lines (R69, R133, R135). -/
theorem Engine.machineStep_lines {s : Engine} (p : Params) (f : WordFields) (adv : Bool) (h : s.Situation)
    (hnib : ¬ ((s.state = .sendingHigh ∨ s.state = .sendingLow) ∧ s.fire = true)) :
    (s.machineStep p f adv).RS = s.RS ∧ (s.machineStep p f adv).D = s.D := by
  cases h with
  | resting hs ht _ hp _ =>
    rw [Engine.machineStep_resting p f adv hs ht hp]
    split
    · exact s.advanceOp_lines p
    · exact ⟨rfl, rfl⟩
  | directPulse hr hs ht _ _ =>
    rw [Engine.machineStep_direct p f adv hr hs ht]
    exact ⟨s.pulseStep_RS p, s.pulseStep_D p⟩
  | timing _ hs ht hp _ =>
    cases hf : s.fire with
    | false => rw [Engine.machineStep_count p f adv hs ht hp hf]; exact ⟨rfl, rfl⟩
    | true =>
      cases hst : s.state with
      | idle => exact absurd hst hs
      | sendingHigh => exact absurd ⟨.inl hst, hf⟩ hnib
      | sendingLow => exact absurd ⟨.inr hst, hf⟩ hnib
      | executing =>
        rw [Engine.machineStep_fire_executing p f adv hst hp hf]
        exact Engine.advanceOp_lines _ p
  | pulsing _ hs ht _ _ =>
    cases hd : s.pulseDone with
    | false =>
      rw [Engine.machineStep_pulse p f adv hs ht hd]
      exact ⟨s.pulseStep_RS p, s.pulseStep_D p⟩
    | true =>
      rcases hs with hst | hst
      · rw [Engine.machineStep_done_high p f adv hst ht hd]; exact ⟨rfl, rfl⟩
      · rw [Engine.machineStep_done_low p f adv hst ht hd]; exact ⟨rfl, rfl⟩

/-- Settles O37: in run mode a tick is the machine's part and the push, and the machine's part drives the lines at
the excluded expiry only. -/
theorem linesChangeOnlyWhenANibbleIsDriven : Obligations.LinesChangeOnlyWhenANibbleIsDriven := by
  intro p e inp hinv hrun hrst hnib
  obtain ⟨-, hsit⟩ := Engine.inv_iff_situation.1 hinv
  unfold Engine.tick
  rw [Engine.tickWord_runMode hrst hrun, Engine.pushStep_RS, Engine.pushStep_D]
  exact Engine.machineStep_lines p _ inp.advance hsit hnib

end Sys2Proof.Machine

namespace Sys2Proof

/-- The timer load is at least one tick (R74, R128). -/
theorem WordFields.exists_timerLoad_eq_succ (f : WordFields) : ∃ n, f.timerLoad.toNat = n + 1 := by
  refine Nat.exists_eq_add_one.2 ?_
  unfold WordFields.timerLoad
  split
  next => decide
  next hd => bv_omega

end Sys2Proof

namespace Sys2Proof.Machine

/-! ## Runs of the machine in which only the engine moves -/

/-- The machine `k` ticks on, with its engine at `e` and these latch events seen; the host side and the parameters
stay. -/
def State.passed (s : State) (k : Nat) (e : Engine) (ls : List Latch) : State :=
  { s with eng := e, now := s.now + k, events := s.events ++ ls }

@[simp] theorem State.passed_eng (s : State) (k : Nat) (e : Engine) (ls : List Latch) :
    (s.passed k e ls).eng = e := rfl
@[simp] theorem State.passed_prod (s : State) (k : Nat) (e : Engine) (ls : List Latch) :
    (s.passed k e ls).prod = s.prod := rfl
@[simp] theorem State.passed_cfg (s : State) (k : Nat) (e : Engine) (ls : List Latch) :
    (s.passed k e ls).cfg = s.cfg := rfl
@[simp] theorem State.passed_now (s : State) (k : Nat) (e : Engine) (ls : List Latch) :
    (s.passed k e ls).now = s.now + k := rfl

/-- `k` steps take the machine's engine to `e`, with these latch events, and leave the host side as it is. -/
def State.Passes (s : State) (k : Nat) (e : Engine) (ls : List Latch) : Prop :=
  Host.Core.run core k s = .next (s.passed k e ls)

theorem State.passes_of_step {s : State} {e : Engine} (h : step s = .next (s.ticked e)) :
    s.Passes 1 e (latchOf (s.now + 1) s.eng e) := run_succ h 0

/-- Runs of this kind join. -/
theorem State.Passes.trans {s : State} {a b : Nat} {e e' : Engine} {ls ls' : List Latch}
    (h : s.Passes a e ls) (h' : (s.passed a e ls).Passes b e' ls') : s.Passes (a + b) e' (ls ++ ls') := by
  unfold State.Passes at *
  rw [run_add h, h']
  simp [State.passed, Nat.add_assoc]

/-- Where EN is idle no latch event can fall (R15). -/
theorem latchOf_off (t : Nat) {s : Engine} (n : Engine) (h : s.EN = false) : latchOf t s n = [] := by
  simp [latchOf, h]

/-! ## A word in flight at the reference parameters, the host's program at its end -/

theorem Engine.inFlight_busy {e : Engine} (h : e.state ≠ .idle) : e.inFlight = some e.active := by
  unfold Engine.inFlight
  cases hs : e.state with
  | idle => exact absurd hs h
  | sendingHigh | sendingLow | executing => rfl

/-- A program whose head line needs a tick, or that is empty, is settled (R83). -/
theorem State.settled_eq_self {s : State}
    (h : settleLines s.eng.atRest s.prod.program s.prod.cursor = (s.prod.program, s.prod.cursor)) :
    s.settled = s := by
  unfold State.settled
  rw [h]

/-- In run mode the tick of a trigger is the machine's part of it. -/
theorem Engine.tickWord_trigger {e : Engine} (p : Params) (f : WordFields) (h : e.run = true) :
    e.tickWord p f In.trigger = e.machineStep p f true := by
  rw [Engine.tickWord_runMode rfl h]
  rfl

/-- A word with the fields `f` is in flight in run mode at the reference parameters, and the host has nothing left
to do. -/
structure State.InFlight (s : State) (f : WordFields) : Prop where
  program : s.prod.program = []
  cfg     : s.cfg = Params.ref
  run     : s.eng.run = true
  busy    : s.eng.state ≠ .idle
  fields  : fieldsOf s.eng.active = f

/-- The word is still in flight where its engine is outside Idle. -/
theorem State.InFlight.passed {s : State} {f : WordFields} {e : Engine} (h : s.InFlight f) (k : Nat)
    (ls : List Latch) (hr : e.run = s.eng.run) (hs : e.state ≠ .idle) (ha : e.active = s.eng.active) :
    (s.passed k e ls).InFlight f := ⟨h.program, h.cfg, hr.trans h.run, hs, (congrArg fieldsOf ha).trans h.fields⟩

/-- A step of the word in flight is the machine's part of a tick. -/
theorem State.InFlight.passes {s : State} {f : WordFields} {e : Engine} (h : s.InFlight f)
    (he : s.eng.machineStep Params.ref f true = e) : s.Passes 1 e (latchOf (s.now + 1) s.eng e) := by
  have hline : s.lineStep = s.quietStep := by simp [State.lineStep, h.program]
  refine State.passes_of_step ?_
  rw [step, State.settled_eq_self (by rw [h.program]; rfl), hline, ← he, ← h.fields, ← h.cfg]
  simp only [State.quietStep, Engine.inFlight_busy h.busy, exec_decodeWord, State.wordTick,
    Engine.tickWord_trigger _ _ h.run]

/-- Where EN is idle the step shows the display nothing. -/
theorem State.InFlight.passes_silent {s : State} {f : WordFields} {e : Engine} (h : s.InFlight f)
    (hen : s.eng.EN = false) (he : s.eng.machineStep Params.ref f true = e) : s.Passes 1 e [] :=
  latchOf_off (s.now + 1) e hen ▸ h.passes he

/-! ## The two nibbles and the delay -/

/-- The engine in the first tick of a nibble's pulse: the lines driven, the timer spent, the sequencer in its setup
phase (R97, R133, R135). -/
def Engine.driven (e : Engine) (rs : Bool) (nib : Nibble) : Engine :=
  (Engine.drive { e with tArmed := false, tRem := 0 } rs nib).startPulse Params.ref

/-- The engine after a nibble: its levels on the lines, EN idle again, and the timer armed for what follows
(R134, R136). -/
def Engine.latched (e : Engine) (rs : Bool) (nib : Nibble) (next : Phase) (load : Delay) : Engine :=
  { e with RS := rs, D := nib, EN := false, pPhase := .idle, pRem := 0, state := next, tArmed := true, tRem := load }

/-- A nibble takes three ticks: the expiry that drives it, the rise of EN, the fall of EN with its latch event
(R140). The premises `hfire` and `hdone` say what the machine does at the expiry and at the end of the pulse
in the phase at hand: R133 and R134, or R135 and R136. -/
theorem State.InFlight.nibble_passes {s : State} {f : WordFields} {nib : Nibble} {next : Phase} {load : Delay}
    (h : s.InFlight f) (hen : s.eng.EN = false) (hs : s.eng.state = .sendingHigh ∨ s.eng.state = .sendingLow)
    (hfire : s.eng.machineStep Params.ref f true = s.eng.driven f.isData nib)
    (hdone : ∀ e : Engine, e.state = s.eng.state → e.tArmed = false → e.pulseDone = true →
      e.machineStep Params.ref f true
        = Engine.arm { e with EN := false, pPhase := .idle, pRem := 0, state := next } load) :
    s.Passes 3 (s.eng.latched f.isData nib next load) [⟨s.now + 3, f.isData, nib⟩] := by
  have hrise : (s.eng.driven f.isData nib).machineStep Params.ref f true
      = (s.eng.driven f.isData nib).raiseEnable Params.ref := Engine.machineStep_pulse _ f true hs rfl rfl
  have hfall : ((s.eng.driven f.isData nib).raiseEnable Params.ref).machineStep Params.ref f true
      = s.eng.latched f.isData nib next load := hdone _ rfl rfl rfl
  have h₁ := h.passed (e := s.eng.driven f.isData nib) 1 [] rfl h.busy rfl
  have h₂ := h₁.passed (e := (s.eng.driven f.isData nib).raiseEnable Params.ref) 1 [] rfl h.busy rfl
  exact (h.passes_silent hen hfire).trans ((h₁.passes_silent hen hrise).trans (h₂.passes hfall))

/-- In SendingHigh the pulse ends in SendingLow with the minimal timer armed (R133, R134). -/
theorem State.InFlight.high_passes {s : State} {f : WordFields} (h : s.InFlight f) (hen : s.eng.EN = false)
    (hs : s.eng.state = .sendingHigh) (hp : s.eng.pPhase = .idle) (hf : s.eng.fire = true) :
    s.Passes 3 (s.eng.latched f.isData f.hi .sendingLow 1) [⟨s.now + 3, f.isData, f.hi⟩] :=
  h.nibble_passes hen (.inl hs) (Engine.machineStep_fire_high _ f true hs hp hf) fun _ he ht hd =>
    Engine.machineStep_done_high _ f true (he.trans hs) ht hd

/-- In SendingLow the pulse ends in Executing with the execution delay armed (R135, R136). -/
theorem State.InFlight.low_passes {s : State} {f : WordFields} (h : s.InFlight f) (hen : s.eng.EN = false)
    (hs : s.eng.state = .sendingLow) (hp : s.eng.pPhase = .idle) (hf : s.eng.fire = true) :
    s.Passes 3 (s.eng.latched f.isData f.lo .executing f.timerLoad) [⟨s.now + 3, f.isData, f.lo⟩] :=
  h.nibble_passes hen (.inr hs) (Engine.machineStep_fire_low _ f true hs hp hf) fun _ he ht hd =>
    Engine.machineStep_done_low _ f true (he.trans hs) ht hd

/-- The execution delay counts down, and its expiry advances (R136, R137). -/
theorem State.InFlight.delay_passes {s : State} {f : WordFields} {n : Nat} (h : s.InFlight f)
    (hen : s.eng.EN = false) (hs : s.eng.state = .executing) (ht : s.eng.tArmed = true)
    (hp : s.eng.pPhase = .idle) (hn : s.eng.tRem.toNat = n + 1) :
    s.Passes (n + 1) (Engine.advanceOp { s.eng with state := .idle, tArmed := false, tRem := 0 } Params.ref)
      [] := by
  induction n generalizing s with
  | zero =>
    have hf : s.eng.fire = true := Engine.fire_iff.2 ⟨ht, hn.le⟩
    exact h.passes_silent hen (Engine.machineStep_fire_executing _ f true hs hp hf)
  | succ n ih =>
    have hf : s.eng.fire = false := by simp [Engine.fire, hn]
    have hcount : (s.eng.tRem - 1).toNat = n + 1 := by bv_omega
    have htick := h.passes_silent hen (Engine.machineStep_count Params.ref f true h.busy ht hp hf)
    have hrest := ih (h.passed (e := { s.eng with tRem := s.eng.tRem - 1 }) 1 [] rfl h.busy rfl) hen hs ht hp hcount
    rw [Nat.add_comm (n + 1)]
    exact htick.trans hrest

/-- The engine at the end of a word with the fields `f`, before its advance operation: the low nibble on the lines
and the timer spent (R137). -/
def Engine.wordDone (e : Engine) (f : WordFields) : Engine :=
  { e.latched f.isData f.lo .idle 0 with tArmed := false }

/-- The word `w` has just been taken from the queue, and `rest` waits behind it (R131). -/
structure State.Starts (s : State) (w : Word) (rest : List Word) : Prop extends s.InFlight (fieldsOf w) where
  sending : s.eng.state = .sendingHigh
  pulse   : s.eng.pPhase = .idle
  enable  : s.eng.EN = false
  timer   : s.eng.fire = true
  queue   : s.eng.q = rest

/-- A word runs its two nibbles and its delay, and then the engine advances (R140). -/
theorem State.Starts.word_passes {s : State} {w : Word} {rest : List Word} (h : s.Starts w rest) :
    let f := fieldsOf w
    s.Passes (6 + f.timerLoad.toNat) ((s.eng.wordDone f).advanceOp Params.ref)
      [⟨s.now + 3, f.isData, f.hi⟩, ⟨s.now + 6, f.isData, f.lo⟩] := by
  intro f
  obtain ⟨n, hn⟩ := f.exists_timerLoad_eq_succ
  have inLow := h.passed (e := s.eng.latched f.isData f.hi .sendingLow 1) 3 [⟨s.now + 3, f.isData, f.hi⟩] rfl
    Phase.noConfusion rfl
  have inDelay := inLow.passed (e := s.eng.latched f.isData f.lo .executing f.timerLoad) 3
    [⟨s.now + 6, f.isData, f.lo⟩] rfl Phase.noConfusion rfl
  have high := h.high_passes h.enable h.sending h.pulse h.timer
  have low := inLow.low_passes rfl rfl rfl rfl
  have delay := inDelay.delay_passes rfl rfl rfl rfl hn
  rw [hn, show 6 + (n + 1) = 3 + (3 + (n + 1)) by omega]
  exact high.trans (low.trans delay)

/-! ## The drain -/

/-- The machine is at rest after its last word, whose low nibble is on the lines. -/
structure Engine.Drained (e : Engine) (nib : Nibble) : Prop where
  state  : e.state = .idle
  queue  : e.q = []
  run    : e.run = true
  enable : e.EN = false
  lines  : e.D = nib

/-- With nothing queued the advance operation ends in Idle (R131, R137). -/
theorem State.Starts.drained {s : State} {w : Word} (h : s.Starts w []) :
    ((s.eng.wordDone (fieldsOf w)).advanceOp Params.ref).Drained (fieldsOf w).lo := by
  rw [Engine.advanceOp_nil (n := s.eng.wordDone (fieldsOf w)) h.queue]
  exact ⟨rfl, h.queue, h.run, rfl, rfl⟩

/-- With a word queued the advance operation starts it (R131, R137). -/
theorem State.Starts.next {s : State} {w v : Word} {rest : List Word} (h : s.Starts w (v :: rest)) (k : Nat)
    (ls : List Latch) :
    (s.passed k ((s.eng.wordDone (fieldsOf w)).advanceOp Params.ref) ls).Starts v rest := by
  rw [Engine.advanceOp_cons (n := s.eng.wordDone (fieldsOf w)) h.queue]
  exact ⟨⟨h.program, h.cfg, h.run, Phase.noConfusion, rfl⟩, rfl, rfl, rfl, rfl, rfl⟩

/-- The words run back to back, with their latch events on schedule, and leave the machine at rest (R62, R141). -/
theorem State.Starts.drain_passes {s : State} {w : Word} {rest : List Word} (h : s.Starts w rest) :
    ∃ e : Engine, s.Passes (scheduledTicks (w :: rest)) e (scheduled s.now (w :: rest))
      ∧ e.Drained (fieldsOf ((w :: rest).getLast (List.cons_ne_nil w rest))).lo := by
  induction rest generalizing s w with
  | nil => exact ⟨_, h.word_passes, h.drained⟩
  | cons v rest ih =>
    obtain ⟨e, hpasses, hdrained⟩ := ih (h.next _ _)
    rw [State.passed_now, ← Nat.add_assoc] at hpasses
    exact ⟨e, h.word_passes.trans hpasses, hdrained⟩

/-- A trigger line takes one step, the tick of `advance = 1` (R83, R129). -/
theorem step_trigger {s : State} {rest : List Line} (h : s.prod.program = .op .advance :: rest) :
    step s = .next ((s.withProgram rest).clock In.trigger) := by
  have hissued : exec (s.issued .advance) (s.withProgram rest) = exec .advance (s.withProgram rest) :=
    exec_issued .advance rfl
  rw [step, State.settled_eq_self (by rw [h]; rfl), State.lineStep, h]
  exact hissued

/-- The trigger of an idle engine in run mode starts the word at the head of the queue (R129, R131). -/
theorem Engine.tick_trigger_idle {e : Engine} (p : Params) {w : Word} {rest : List Word} (hr : e.run = true)
    (hs : e.state = .idle) (ht : e.tArmed = false) (hp : e.pPhase = .idle) (hq : e.q = w :: rest) :
    e.tick p In.trigger
      = { e with q := rest, active := w, state := .sendingHigh, tArmed := true, tRem := p.minTicks } := by
  unfold Engine.tick
  rw [Engine.tickWord_trigger p _ hr, Engine.machineStep_resting p _ true hs ht hp, if_pos (by rw [hr]; rfl)]
  exact Engine.advanceOp_cons hq

/-- The trigger's step leaves the first word started and the host's program at its end. -/
theorem State.starts_of_trigger {s : State} {w : Word} {rest : List Word} (hr : s.eng.run = true)
    (hs : s.eng.state = .idle) (ht : s.eng.tArmed = false) (hp : s.eng.pPhase = .idle)
    (hen : s.eng.EN = false) (hq : s.eng.q = w :: rest) (hcfg : s.cfg = Params.ref) :
    ((s.withProgram []).clock In.trigger).Starts w rest := by
  unfold State.clock
  rw [State.withProgram_eng, State.withProgram_cfg, hcfg, Engine.tick_trigger_idle Params.ref hr hs ht hp hq]
  exact ⟨⟨rfl, hcfg, hr, Phase.noConfusion, rfl⟩, rfl, hp, hen, rfl, rfl⟩

/-- Settles O45: the trigger starts the first word, and then the words run back to back. -/
theorem triggerDrainsTheQueueOnSchedule : Obligations.TriggerDrainsTheQueueOnSchedule := by
  intro s w rest hinv hen hrun hidle hq hcfg hprog
  obtain ⟨-, -, -, -, -, hrest, -⟩ := hinv
  obtain ⟨ht, hp⟩ := hrest hidle
  obtain ⟨e, hpasses, hstate, hqueue, hrun', hen', hlines⟩ :=
    (State.starts_of_trigger hrun hidle ht (hp hrun) hen hq hcfg).drain_passes
  have htotal := (run_succ (step_trigger hprog) _).trans hpasses
  rw [Nat.add_comm] at htotal
  exact ⟨_, htotal, hstate, hqueue, hrun', hen', hlines, by simp [State.passed, latchOf_off _ _ hen], rfl, rfl⟩

end Sys2Proof.Machine

namespace Sys2Proof

/-! # Encoding and decoding (30_encoding) -/

/-! ## The three fields of a word -/

/-- Packing the fields of a word gives it back: the three fields are all its bits (R86). -/
@[simp] theorem packWord_fieldsOf (w : Word) :
    packWord (fieldsOf w).isData (fieldsOf w).delay (fieldsOf w).opcode = w := by
  refine BitVec.eq_of_getLsbD_eq fun k hk => ?_
  simp only [packWord, fieldsOf, BitVec.getLsbD_append, BitVec.getLsbD_extractLsb', BitVec.getLsbD_ofBool]
  by_cases ho : k < 8
  · simp [ho]
  by_cases hd : k < 24
  · simp [ho, show k - 8 < 16 by omega, show 8 + (k - 8) = k by omega]
  · obtain rfl : k = 24 := by omega
    simp

/-- The value of a packed word (R70). -/
theorem packWord_toNat (i : Bool) (d : Delay) (o : Byte) :
    (packWord i d o).toNat = i.toNat * 2 ^ 24 + d.toNat * 2 ^ 8 + o.toNat := by
  simp only [packWord, BitVec.toNat_append, BitVec.toNat_ofBool]
  rw [← Nat.shiftLeft_add_eq_or_of_lt o.isLt, ← Nat.shiftLeft_add_eq_or_of_lt d.isLt,
    Nat.shiftLeft_eq, Nat.shiftLeft_eq]
  omega

/-- Settles O54: the fields are all the bits of a word, and they do not overlap. -/
theorem fieldsAndWordsAreInverse : Obligations.FieldsAndWordsAreInverse :=
  ⟨fieldsOf_pack, packWord_fieldsOf, packWord_toNat⟩

/-! ## The instruction of a word -/

/-- An instruction that has fields is encoded as the word with these fields (R70, R76). -/
theorem encode_of_wordOf {i : Instr} {f : WordFields} (h : wordOf i = some f) :
    encode i = some (.iw (packWord f.isData f.delay f.opcode)) := by
  cases i <;> simp only [wordOf, Option.some.injEq, reduceCtorEq] at h <;> subst h <;> rfl

/-- The decoder picks the most specific row (R85). -/
theorem wellFormed_decodeWord (w : Word) : WellFormed (decodeWord w) = true := by
  unfold decodeWord
  dsimp only
  repeat' split
  all_goals simp_all [WellFormed, namedOpcode]

/-- Settles O53: the decoded instruction has the word's fields, and the fields are the whole word. -/
theorem everyWordIsOneInstruction : Obligations.EveryWordIsOneInstruction := fun w =>
  ⟨by rw [encode_of_wordOf (Machine.wordOf_decodeWord w), packWord_fieldsOf], wellFormed_decodeWord w,
    Machine.wordOf_decodeWord w⟩


/-- A cursor-set opcode holds its address below bit 7, which no other named opcode sets (R76, R161). -/
theorem cursorOpcode_parts : ∀ a : Addr, (1#1 ++ a : Byte).getLsbD 7 = true
    ∧ (1#1 ++ a : Byte).extractLsb' 0 7 = a
    ∧ ∀ o ∈ [0x28, 0x08, 0x01, 0x06, 0x0C], (1#1 ++ a : Byte) ≠ o := by decide

/-- A well-formed instruction is the decoding of every word that has its fields (R85, R86). -/
theorem decodeWord_of_wordOf {i : Instr} {w : Word} (hi : WellFormed i = true) (h : wordOf i = some (fieldsOf w)) :
    decodeWord w = i := by
  unfold decodeWord
  generalize fieldsOf w = f at h
  cases i with
  | functionSet d | displayOff d | clearDisplay d | entryModeSet d | displayOn d | dataWriteWriter c =>
    obtain rfl := Option.some.inj h
    rfl
  | dataWrite o d =>
    obtain rfl := Option.some.inj h
    exact if_neg (by simpa [WellFormed] using hi)
  | cursorSet a d =>
    obtain rfl := Option.some.inj h
    obtain ⟨hbit, haddr, hnamed⟩ := cursorOpcode_parts a
    simp_all
  | cmd o d =>
    obtain rfl := Option.some.inj h
    simp_all [WellFormed, namedOpcode]
  | _ => exact nomatch h

/-! ## The instruction of a host operation -/

/-- The pattern of a level alone decodes to `SETLEVEL` (R79). -/
theorem decodeDirect_setLevel : ∀ (g : BitVec 3) (b : Bool),
    decodeDirect (encodeDirect false true g b) = .ok (.setLevel g b) := by decide

/-- The pattern of a level with a pulse decodes to both (R79, R96). -/
theorem decodeDirect_setLevelPulse : ∀ (g : BitVec 3) (b : Bool),
    decodeDirect (encodeDirect true true g b) = .ok (.setLevelPulse g b) := by decide

/-- A nibble that has no name of its own decodes to `SEND_NIBBLE` of it (R80, R85). -/
theorem decodeNibble_encodeNibble : ∀ n : Nibble, WellFormed (.sendNibble n) = true →
    decodeNibble (encodeNibble n) = .ok (.sendNibble n) := by decide

/-- A byte without a branch of its own is any other character (R85, R190). -/
theorem decodeChar_of_wellFormed {c : Byte} (h : WellFormed (.writeCharOther c) = true) :
    decodeChar c = .writeCharOther c := by
  obtain ⟨htilde, hback⟩ : c ≠ 0x7E ∧ c ≠ 0x08 := by simpa [WellFormed] using h
  rw [decodeChar, if_neg htilde, if_neg hback]

/-- POP alone has no port and so no encoding (R113, R36). -/
theorem encode_eq_none_iff (i : Instr) : encode i = none ↔ i = .pop := by
  cases i <;> simp [encode]

/-- Decoding undoes encoding for the spelling by the most specific row: an instruction with fields through its word,
a host operation through its pattern (R85). -/
theorem decode_encode {i : Instr} {e : Encoded} (hi : WellFormed i = true) (he : encode i = some e) :
    decode e = .ok i := by
  cases hw : wordOf i with
  | some f =>
    obtain rfl := Option.some.inj ((encode_of_wordOf hw).symm.trans he)
    exact congrArg Except.ok (decodeWord_of_wordOf hi (by rw [hw, fieldsOf_pack]))
  | none =>
    cases i with
    | pop => exact nomatch he
    | setLevel g b => obtain rfl := Option.some.inj he; exact decodeDirect_setLevel g b
    | setLevelPulse g b => obtain rfl := Option.some.inj he; exact decodeDirect_setLevelPulse g b
    | sendNibble n => obtain rfl := Option.some.inj he; exact decodeNibble_encodeNibble n hi
    | writeCharOther c => obtain rfl := Option.some.inj he; exact congrArg Except.ok (decodeChar_of_wellFormed hi)
    | pulseEnable | sendNibble3 | sendNibble2 | push w | advance | setRun | reset | writeCharTilde
    | writeCharBackspace | initCall => obtain rfl := Option.some.inj he; rfl
    | _ => exact nomatch hw

/-- Settles O52: POP alone has no encoding, and `decode` undoes `encode`. -/
theorem decodeOfEncodeIsTheInstruction : Obligations.DecodeOfEncodeIsTheInstruction := fun i =>
  ⟨encode_eq_none_iff i, fun hi _ he => decode_encode hi he⟩

/-- Settles O55: the decoder evaluates to the instruction at each of the seventeen patterns. -/
theorem wordsOfTheSpecDecode : Obligations.WordsOfTheSpecDecode := by
  unfold Obligations.WordsOfTheSpecDecode
  decide

end Sys2Proof

namespace Sys2Proof.Machine

/-! # The lines of the host's program (30_encoding) -/

/-! ## What a step runs -/

/-- A tick without a request runs the word in flight (R150). -/
theorem State.quietStep_inFlight {s : State} {w : Word} (h : s.eng.inFlight = some w) :
    s.quietStep = exec (decodeWord w) s := by
  simp only [State.quietStep, h]

/-- A tick without a request and without a word in flight only passes. -/
theorem State.quietStep_none {s : State} (h : s.eng.inFlight = none) : s.quietStep = .next (s.clock In.quiet) := by
  simp only [State.quietStep, h]

/-- A trigger that fetches runs the fetched word (R25). -/
theorem State.issued_fetch {s : State} {w : Word} (h : s.eng.fetch = some w) :
    s.issued .advance = decodeWord w := by
  simp only [State.issued, if_pos, h]

/-- Any other instruction runs itself. -/
theorem State.issued_self {s : State} {i : Instr} (h : i ≠ .advance ∨ s.eng.fetch = none) : s.issued i = i := by
  unfold State.issued
  split
  next hi => simp only [h.resolve_left (not_not_intro hi)]
  next => rfl

section
variable {s : State} {rest : List Line}

/-- A host operation that decodes runs its instruction, the line dropped or held (R83). -/
theorem step_op {h : HostWord} {i : Instr} (hp : s.settled.prod.program = .op h :: rest)
    (hd : decodeHost h = .ok i) :
    step s = exec (s.issued i) (s.settled.withProgram (heldProgram s.eng h rest)) := by
  unfold step State.lineStep
  simp only [hp, hd]
  rfl

/-- A direct-port pattern without a request is a tick without one (R79). -/
theorem step_noRequest {v : BitVec 6} (hp : s.settled.prod.program = .op (.dp v) :: rest)
    (hd : decodeHost (.dp v) = .error .noRequest) : step s = (s.settled.withProgram rest).quietStep := by
  unfold step State.lineStep
  simp only [hp, hd]

/-- A line of port levels is a tick with them (R81). -/
theorem step_ports {inp : In} (hp : s.settled.prod.program = .ports inp :: rest) :
    step s = .next ((s.settled.withProgram rest).clock inp) := by
  unfold step State.lineStep
  simp only [hp]

/-- `WAIT n` is a tick without a request, and one tick less is left (R83). -/
theorem step_wait {n : Nat} (hp : s.settled.prod.program = .wait (n + 1) :: rest) :
    step s = (s.settled.withProgram (.wait n :: rest)).quietStep := by
  unfold step State.lineStep
  simp only [hp]

/-- `WAITIDLE` is a tick without a request and stays (R83). -/
theorem step_waitIdle (hp : s.settled.prod.program = .waitIdle :: rest) : step s = s.settled.quietStep := by
  unfold step State.lineStep
  simp only [hp]

/-- At the end of the program no tick has a request. -/
theorem step_nil (hp : s.settled.prod.program = []) : step s = s.settled.quietStep := by
  unfold step State.lineStep
  simp only [hp]

end

/-- Settles O8: one rule for each kind of line, and a tick without a request runs the word in flight or passes. -/
theorem stepRunsTheDecodedInstruction : Obligations.StepRunsTheDecodedInstruction := by
  refine ⟨fun s h rest i hp hd hi => ?_, fun s rest w hp hf => ?_,
    fun s w hp hw => (step_nil hp).trans (State.quietStep_inFlight hw),
    fun s rest w hp hw => (step_waitIdle hp).trans (State.quietStep_inFlight hw),
    fun s n rest w hp hw => (step_wait hp).trans (State.quietStep_inFlight hw),
    fun s hp hw => (step_nil hp).trans (State.quietStep_none hw),
    fun s rest hp hw => (step_waitIdle hp).trans (State.quietStep_none hw),
    fun s n rest hp hw => (step_wait hp).trans (State.quietStep_none hw),
    fun s v rest w hp hd hw => (step_noRequest hp hd).trans (State.quietStep_inFlight hw),
    fun s v rest hp hd hw => (step_noRequest hp hd).trans (State.quietStep_none hw),
    fun s inp rest hp => step_ports hp⟩
  · rw [step_op hp hd, State.issued_self hi]
  · rw [step_op hp rfl, State.issued_fetch hf]
    rfl

/-! ## Requests that are not accepted -/

/-- A request to a closed direct port changes nothing (R91, R95). -/
theorem Engine.tick_direct_closed {e : Engine} (p : Params) (pulse set : Bool) (g : BitVec 3) (b : Bool)
    (h : e.dirReady = false) : e.tick p (In.direct pulse set g b) = e.tick p In.quiet := by
  unfold Engine.tick
  rw [Engine.tickWord_live rfl, Engine.tickWord_live rfl, Engine.directStep_closed _ _ _ h,
    Engine.directStep_closed _ _ _ h]
  rfl

/-- A word presented to a full queue changes nothing (R111, R112). -/
theorem Engine.tick_push_full {e : Engine} (p : Params) (w : Word) (h : e.pushReady = false) :
    e.tick p (In.pushOf w) = e.tick p In.quiet := by
  unfold Engine.tick
  rw [Engine.tickWord_live rfl, Engine.tickWord_live rfl, Engine.pushStep_eq, Engine.pushStep_eq, h]
  rfl

/-- A macro whose first line is not accepted has expanded: its lines are the program's next ones, and the tick is
one without a request (R83, R84). -/
theorem State.runMacro_held {s : State} {first : HostWord} (more : List Line)
    (hdone : lineDone s.eng first = false)
    (htick : s.eng.tick s.cfg (portsOf first) = s.eng.tick s.cfg In.quiet) :
    s.runMacro first more
      = { s.clock In.quiet with prod := ⟨s.prod.cursor, .op first :: (more ++ s.prod.program)⟩ } := by
  unfold State.runMacro heldProgram State.clock
  rw [hdone, State.withProgram_eng, State.withProgram_cfg, htick]
  rfl

/-- A macro that begins with a push, at a full queue (R83, R112). -/
theorem State.runMacro_push_full {s : State} (w : Word) (more : List Line) (h : s.eng.pushReady = false) :
    s.runMacro (.push w) more
      = { s.clock In.quiet with prod := ⟨s.prod.cursor, .op (.push w) :: (more ++ s.prod.program)⟩ } :=
  State.runMacro_held more h (Engine.tick_push_full s.cfg w h)

/-- `SEND_NIBBLE` at a closed direct port (R83, R99). -/
theorem State.startNibble_closed {s : State} (n : Nibble) (h : s.eng.dirReady = false) :
    s.startNibble n = { s.clock In.quiet with
      prod := ⟨s.prod.cursor, .op (setLevelLine 5 false) :: (sendNibbleRest n ++ s.prod.program)⟩ } := by
  have hdone : lineDone s.eng (setLevelLine 5 false) = false := (Bool.or_false _).trans h
  have htick := Engine.tick_direct_closed s.cfg false true 5 false h
  exact State.runMacro_held (sendNibbleRest n) hdone htick

/-- Settles O26: the first line of each expansion is held, and its request changes nothing. -/
theorem macrosWaitForTheirPort : Obligations.MacrosWaitForTheirPort := by
  refine fun s => ⟨fun hclosed i n hi => ?_, fun hfull => ?_, fun hfull hcursor => ?_, fun hfull c => ?_⟩
  · have hnibble : exec i s = .next (s.startNibble n) := by
      obtain rfl | ⟨rfl, rfl⟩ | ⟨rfl, rfl⟩ := hi <;> rfl
    rw [hnibble, State.startNibble_closed n hclosed]
    rfl
  all_goals replace hfull := Engine.pushReady_false_iff.2 hfull
  · exact congrArg Host.Outcome.next (State.runMacro_push_full _ _ hfull)
  · unfold exec execWriteCharBackspace
    rw [if_neg hcursor]
    exact congrArg Host.Outcome.next (State.runMacro_push_full _ _ hfull)
  · exact congrArg Host.Outcome.next (State.runMacro_push_full _ _ hfull)

end Sys2Proof.Machine

namespace Sys2Proof.Machine

/-! # The direct port (40_pin_driver) -/

/-! ## `PinWrite`, latch by latch -/

/-- Signals 0 to 3 are the data lines (R56). -/
theorem Engine.pinWrite_data {e : Engine} {g : BitVec 3} (b : Bool) (hg : g.toNat ≤ 3) :
    e.pinWrite g b = { e with D := setDataLine e.D g.toNat b } := if_pos hg

/-- Signal 4 is EN (R56). -/
theorem Engine.pinWrite_enable (e : Engine) (b : Bool) : e.pinWrite 4 b = { e with EN := b } := rfl

/-- Signal 5 is RS (R56). -/
theorem Engine.pinWrite_select (e : Engine) (b : Bool) : e.pinWrite 5 b = { e with RS := b } := rfl

/-- Signals 6 and 7 are reserved (R56, R91). -/
theorem Engine.pinWrite_reserved {e : Engine} {g : BitVec 3} (b : Bool) (hg : 6 ≤ g.toNat) :
    e.pinWrite g b = e := by
  have h4 : g ≠ 4 := by rintro rfl; exact absurd hg (by decide)
  have h5 : g ≠ 5 := by rintro rfl; exact absurd hg (by decide)
  rw [Engine.pinWrite, if_neg (by omega), if_neg h4, if_neg h5]

/-- Only the data lines' own signals write D. -/
theorem Engine.pinWrite_D_of_not_data {e : Engine} {g : BitVec 3} (b : Bool) (hg : ¬ g.toNat ≤ 3) :
    (e.pinWrite g b).D = e.D := by
  rw [Engine.pinWrite, if_neg hg]
  repeat' split
  all_goals rfl

/-- A data line takes the level where its own number is named, and else keeps its level (R53, R56). -/
theorem Engine.pinWrite_D_bit (e : Engine) (g : BitVec 3) (b : Bool) {k : Nat} (hk : k < 4) :
    (e.pinWrite g b).D.getLsbD k = if k = g.toNat then b else e.D.getLsbD k := by
  by_cases hg : g.toNat ≤ 3
  · rw [Engine.pinWrite_data b hg]
    exact setDataLine_bit e.D g b ⟨k, hk⟩ hg
  · rw [Engine.pinWrite_D_of_not_data b hg, if_neg (by omega)]

/-- RS takes the level where signal 5 is named, and else keeps its level (R56). -/
theorem Engine.pinWrite_RS (e : Engine) (g : BitVec 3) (b : Bool) :
    (e.pinWrite g b).RS = if g = 5 then b else e.RS := by
  by_cases h5 : g = 5
  · subst h5; rfl
  · rw [if_neg h5]
    unfold Engine.pinWrite
    repeat' split
    all_goals rfl

/-- A tick that leaves EN as it was is no latch event (R15). -/
theorem latchOf_same (t : Nat) {s n : Engine} (h : n.EN = s.EN) : latchOf t s n = [] := by
  simp [latchOf, h]

/-- A tick after which EN is asserted is no latch event (R15). -/
theorem latchOf_on (t : Nat) (s : Engine) {n : Engine} (h : n.EN = true) : latchOf t s n = [] := by
  simp [latchOf, h]

/-- `PinWrite` is a latch event where it lets EN fall (R15, R93). -/
theorem latchOf_pinWrite (t : Nat) (e : Engine) (g : BitVec 3) (b : Bool) :
    latchOf t e (e.pinWrite g b)
      = if g = 4 ∧ b = false ∧ e.EN = true then [⟨t, e.RS, e.D⟩] else [] := by
  by_cases h4 : g = 4
  · subst h4
    rw [e.pinWrite_enable b]
    cases b <;> cases hen : e.EN <;> simp [latchOf, hen]
  · rw [latchOf_same t (Engine.pinWrite_EN b h4), if_neg fun h => h4 h.1]

/-- A tick to `e` without a latch event moves the engine and the time only. -/
theorem State.clock_silent {s : State} {inp : In} {e : Engine} (he : s.eng.tick s.cfg inp = e)
    (hlatch : latchOf (s.now + 1) s.eng e = []) : s.clock inp = { s with eng := e, now := s.now + 1 } := by
  rw [State.clock, he, State.ticked, hlatch, List.append_nil]

/-! ## The tick of a direct-port request -/

/-- A request to a closed direct port is a tick without it (R91, R95). -/
theorem State.clock_direct_closed {s : State} (pulse set : Bool) (g : BitVec 3) (b : Bool)
    (h : s.eng.dirReady = false) : s.clock (In.direct pulse set g b) = s.clock In.quiet := by
  unfold State.clock
  rw [Engine.tick_direct_closed s.cfg pulse set g b h]

/-- A request to an open direct port: the level, then the pulse, and nothing else (R91, R95, R96). -/
theorem Engine.tick_direct_open {e : Engine} (p : Params) (pulse set : Bool) (g : BitVec 3) (b : Bool)
    (h : e.Inv) (hd : e.dirReady = true) :
    e.tick p (In.direct pulse set g b)
      = if pulse then (e.levelStep (In.direct pulse set g b)).raiseEnable p
        else e.levelStep (In.direct pulse set g b) := by
  rw [Engine.tick_open p _ h hd rfl, Engine.directStep_open e p _ hd]
  simp [Engine.pushStep, In.direct]

/-- An accepted SETLEVEL is its `PinWrite` (R91). -/
theorem Engine.tick_setLevel {e : Engine} (p : Params) (g : BitVec 3) (b : Bool) (h : e.Inv)
    (hd : e.dirReady = true) : e.tick p (In.direct false true g b) = e.pinWrite g b :=
  e.tick_direct_open p false true g b h hd

/-- An accepted PULSE_ENABLE raises EN (R95). -/
theorem Engine.tick_pulseEnable {e : Engine} (p : Params) (h : e.Inv) (hd : e.dirReady = true) :
    e.tick p (In.direct true false 0 false) = e.raiseEnable p :=
  e.tick_direct_open p true false 0 false h hd

/-- SETLEVEL and PULSE_ENABLE accepted together: the level first, the pulse second (R96). -/
theorem Engine.tick_setLevelPulse {e : Engine} (p : Params) (g : BitVec 3) (b : Bool) (h : e.Inv)
    (hd : e.dirReady = true) : e.tick p (In.direct true true g b) = (e.pinWrite g b).raiseEnable p :=
  e.tick_direct_open p true true g b h hd

/-- A `set_run` beside a pulse is refused (R96, R139). -/
theorem Engine.directStep_pulse_setRun (s n : Engine) (p : Params) {inp : In} (run : Bool)
    (h : inp.dirPulse = true) : s.directStep n p { inp with setRun := run } = s.directStep n p inp := by
  cases hd : s.dirReady with
  | false => rw [Engine.directStep_closed _ _ _ hd, Engine.directStep_closed _ _ _ hd]
  | true => rw [Engine.directStep_open _ _ _ hd, Engine.directStep_open _ _ _ hd, if_pos h, if_pos h]; rfl

/-- A `set_run` beside a pulse makes no difference to the tick (R96, R139). -/
theorem Engine.tick_pulse_setRun (e : Engine) (p : Params) {inp : In} (run : Bool) (h : inp.dirPulse = true) :
    e.tick p { inp with setRun := run } = e.tick p inp := by
  unfold Engine.tick Engine.tickWord
  rw [Engine.directStep_pulse_setRun _ _ p run h]
  rfl

/-- Settles O20: an accepted SETLEVEL is its `PinWrite`, signal by signal. -/
theorem setLevelWritesItsLatch : Obligations.SetLevelWritesItsLatch := by
  refine ⟨fun g b s hclosed => congrArg Host.Outcome.next (State.clock_direct_closed false true g b hclosed),
    fun g b s hinv hopen => ⟨_, rfl, ?_⟩⟩
  rw [State.clock_eng, State.clock_events, Engine.tick_setLevel s.cfg g b hinv hopen, latchOf_pinWrite]
  refine ⟨fun hg => ⟨?_, fun k hk => s.eng.pinWrite_D_bit g b hk⟩, ?_, ?_, Engine.pinWrite_reserved b,
    rfl, rfl, rfl, rfl⟩
  · rw [Engine.pinWrite_data b hg]
  · rintro rfl; exact s.eng.pinWrite_enable b
  · rintro rfl; exact s.eng.pinWrite_select b

/-- Settles O22: an accepted pair is the `PinWrite` and then the pulse, which decides EN. -/
theorem setLevelWithPulseAppliesBoth : Obligations.SetLevelWithPulseAppliesBoth := by
  refine ⟨fun p e g b => e.tick_pulse_setRun p true rfl,
    fun g b s hclosed => congrArg Host.Outcome.next (State.clock_direct_closed true true g b hclosed),
    fun g b s hinv hopen => ⟨_, rfl, ?_⟩⟩
  rw [State.clock_eng, State.clock_events, Engine.tick_setLevelPulse s.cfg g b hinv hopen,
    latchOf_on _ s.eng (Engine.raiseEnable_EN _ _), List.append_nil]
  refine ⟨?_, fun k hk => s.eng.pinWrite_D_bit g b hk, s.eng.pinWrite_RS g b, rfl, rfl, rfl, rfl⟩
  rw [s.eng.pinWrite_frame g b]
  rfl

/-! ## A pulse of the direct port -/

/-- A pulse of the direct port is in its high phase, and EN falls in the tick after the next `k` (R95, R98). -/
structure Engine.Pulsing (e : Engine) (k : Nat) : Prop where
  inv    : e.Inv
  mode   : e.run = false
  enable : e.EN = true
  phase  : e.pPhase = .high
  left   : e.pRem = k + 1

/-- The engine at the end of a pulse: EN idle and the sequencer at rest (R98). -/
def Engine.released (e : Engine) : Engine := { e with EN := false, pPhase := .idle, pRem := 0 }

/-- A pulse leaves an engine whose EN was idle as it found it (R95). -/
theorem Engine.released_raiseEnable {e : Engine} (p : Params) (h : e.Inv) (hd : e.dirReady = true)
    (hen : e.EN = false) : (e.raiseEnable p).released = e := by
  rw [e.open_shape h hd]
  simp [Engine.released, Engine.raiseEnable, hen]

/-- An accepted PULSE_ENABLE starts a pulse of PULSE_TICKS (R95). -/
theorem Engine.raiseEnable_pulsing {e : Engine} {k : Nat} {p : Params} (h : e.Inv) (hd : e.dirReady = true)
    (hk : p.pulseTicks = k + 1) : (e.raiseEnable p).Pulsing k := by
  have hinv : (e.raiseEnable p).Inv := Engine.tick_pulseEnable p h hd ▸ Engine.tickWord_inv p _ _ h
  exact ⟨hinv, (Engine.dirReady_iff.1 hd).1, rfl, rfl, hk⟩

/-- A pulse keeps the direct port closed (R38, R102). -/
theorem Engine.Pulsing.dirReady {e : Engine} {k : Nat} (h : e.Pulsing k) : e.dirReady = false := by
  simp [Engine.dirReady, h.phase]

section
variable {e : Engine} {k : Nat} {p : Params} {inp : In}

/-- During a pulse a tick is the sequencer's step and the push (R98, R111). -/
theorem Engine.Pulsing.tick_eq (h : e.Pulsing k) (hrst : inp.rst = false) :
    e.tick p inp = e.pushStep (e.pulseStep p) inp := by
  unfold Engine.tick
  rw [Engine.tickWord_live hrst, Engine.directStep_closed _ p inp h.dirReady,
    Engine.machineStep_directMode p _ _ h.inv h.mode]

/-- Before its last tick a pulse counts down (R98). -/
theorem Engine.Pulsing.pulseStep_succ (h : e.Pulsing (k + 1)) : e.pulseStep p = { e with pRem := k + 1 } := by
  simp [Engine.pulseStep, h.phase, h.left]

/-- In its last tick EN falls (R98). -/
theorem Engine.Pulsing.pulseStep_zero (h : e.Pulsing 0) : e.pulseStep p = e.released :=
  Engine.pulseStep_done p (Engine.pulseDone_iff.2 ⟨h.phase, h.left.le⟩)

/-- A tick before the last is one tick less to the fall of EN, whatever the inputs are. -/
theorem Engine.Pulsing.tick_pulsing (h : e.Pulsing (k + 1)) (hrst : inp.rst = false) :
    (e.tick p inp).Pulsing k := by
  have hinv : (e.tick p inp).Inv := Engine.tickWord_inv p _ inp h.inv
  rw [h.tick_eq hrst, h.pulseStep_succ, Engine.pushStep_eq] at hinv ⊢
  exact ⟨hinv, h.mode, h.enable, h.phase, rfl⟩

/-- The levels on RS and D stay through a pulse (R95). -/
theorem Engine.Pulsing.tick_lines (h : e.Pulsing k) (hrst : inp.rst = false) :
    (e.tick p inp).RS = e.RS ∧ (e.tick p inp).D = e.D := by
  simp [h.tick_eq hrst]

/-- The last tick of a pulse opens the direct port again, and its latch event carries RS and D (R15, R95). -/
theorem Engine.Pulsing.tick_releases (h : e.Pulsing 0) (hrst : inp.rst = false) (t : Nat) :
    (e.tick p inp).EN = false ∧ (e.tick p inp).dirReady = true
      ∧ latchOf t e (e.tick p inp) = [⟨t, e.RS, e.D⟩] := by
  rw [h.tick_eq hrst, h.pulseStep_zero, Engine.pushStep_eq]
  exact ⟨rfl, Engine.dirReady_iff.2 ⟨h.mode, rfl⟩, by simp [latchOf, Engine.released, h.enable]⟩

/-- While fewer ticks have passed than the pulse has, it goes on (R95). -/
theorem Engine.Pulsing.after_pulsing {ins : List In} (h : e.Pulsing (k + ins.length)) (hins : noReset ins) :
    (e.after p ins).Pulsing k := by
  induction ins generalizing e with
  | nil => exact h
  | cons inp rest ih =>
    obtain ⟨hinp, hrest⟩ := List.forall_mem_cons.1 hins
    exact ih (h.tick_pulsing hinp) hrest

/-- After all its ticks the pulse is over, with one latch event (R95). -/
theorem Engine.Pulsing.after_releases {ins : List In} (h : e.Pulsing k) (hins : noReset ins)
    (hlen : ins.length = k + 1) (t : Nat) :
    (e.after p ins).EN = false ∧ (e.after p ins).dirReady = true
      ∧ e.latches p t ins = [⟨t + (k + 1), e.RS, e.D⟩] := by
  induction k generalizing e ins t with
  | zero =>
    obtain ⟨inp, rfl⟩ := List.length_eq_one_iff.1 hlen
    obtain ⟨hen, hready, hlatch⟩ := h.tick_releases (p := p) (hins inp List.mem_cons_self) (t + 1)
    exact ⟨hen, hready, (List.append_nil _).trans hlatch⟩
  | succ k ih =>
    obtain ⟨inp, rest, rfl⟩ := List.exists_cons_of_length_eq_add_one hlen
    obtain ⟨hinp, hrest⟩ := List.forall_mem_cons.1 hins
    have hnext : (e.tick p inp).Pulsing k := h.tick_pulsing hinp
    obtain ⟨hen, hready, hlatches⟩ := ih hnext hrest (Nat.succ.inj hlen) (t + 1)
    obtain ⟨hRS, hD⟩ := h.tick_lines (p := p) hinp
    refine ⟨hen, hready, ?_⟩
    rw [Engine.latches, latchOf_on _ e hnext.enable, List.nil_append, hlatches, hRS, hD, Nat.add_right_comm t,
      Nat.add_assoc]

end

/-- Settles O21: an accepted PULSE_ENABLE raises EN, and the sequencer alone counts the pulse down. -/
theorem pulseEnableHoldsAndReleases : Obligations.PulseEnableHoldsAndReleases := by
  refine ⟨fun s hclosed => congrArg Host.Outcome.next (State.clock_direct_closed true false 0 false hclosed),
    fun s hinv hopen => congrArg Host.Outcome.next
      (State.clock_silent (Engine.tick_pulseEnable s.cfg hinv hopen) (latchOf_on _ s.eng rfl)),
    fun p e ins hinv hrun hen hp hrem hpos hins => ?_⟩
  · obtain ⟨k, hk⟩ : ∃ k, p.pulseTicks = k + 1 := Nat.exists_eq_add_one.2 hpos
    have hpulse : e.Pulsing k := ⟨hinv, hrun, hen, hp, hrem.trans hk⟩
    rw [hk]
    refine ⟨fun hlen => ?_, fun hlen => ?_⟩
    · have hafter : (e.after p ins).Pulsing (k - ins.length) :=
        Engine.Pulsing.after_pulsing (by rwa [Nat.sub_add_cancel (Nat.le_of_lt_succ hlen)]) hins
      exact ⟨hafter.enable, hafter.dirReady⟩
    · obtain ⟨hoff, hready, -⟩ := hpulse.after_releases (p := p) hins hlen 0
      exact ⟨hoff, hready, fun t => (hpulse.after_releases hins hlen t).2.2⟩

/-! ## SEND_NIBBLE -/

/-- The row that names a nibble-only transmission (R85, R99). -/
def nibbleInstr (n : Nibble) : Instr :=
  if n = 3 then .sendNibble3 else if n = 2 then .sendNibble2 else .sendNibble n

/-- A nibble line decodes to that row (R80, R85). -/
theorem decodeNibble_encodeNibble_eq : ∀ n : Nibble, decodeNibble (encodeNibble n) = .ok (nibbleInstr n) := by
  decide

/-- Each of the three rows is one tick of `sendNibble` (R99). -/
theorem exec_sendNibble {i : Instr} {n : Nibble}
    (h : i = .sendNibble n ∨ (i = .sendNibble3 ∧ n = 3) ∨ (i = .sendNibble2 ∧ n = 2)) (s : State) :
    exec i s = .next (s.startNibble n) := by
  obtain rfl | ⟨rfl, rfl⟩ | ⟨rfl, rfl⟩ := h <;> rfl

theorem nibbleInstr_cases (n : Nibble) : nibbleInstr n = .sendNibble n
    ∨ (nibbleInstr n = .sendNibble3 ∧ n = 3) ∨ (nibbleInstr n = .sendNibble2 ∧ n = 2) := by
  unfold nibbleInstr
  split
  next h3 => exact .inr (.inl ⟨rfl, h3⟩)
  split
  next h2 => exact .inr (.inr ⟨rfl, h2⟩)
  next => exact .inl rfl

theorem nibbleInstr_ne_advance (n : Nibble) : nibbleInstr n ≠ .advance := by
  obtain h | ⟨h, -⟩ | ⟨h, -⟩ := nibbleInstr_cases n <;> rw [h] <;> exact Instr.noConfusion

/-- A direct-port line is done in a tick in which the port is open (R83). -/
theorem heldProgram_direct_open {e : Engine} (v : BitVec 6) (rest : List Line) (h : e.dirReady = true) :
    heldProgram e (.dp v) rest = rest := by
  simp [heldProgram, lineDone, h]

/-- Writing the four data lines one by one leaves the nibble on them (R99). -/
theorem setDataLine_all : ∀ d n : Nibble,
    setDataLine (setDataLine (setDataLine (setDataLine d 0 (n.getLsbD 0)) 1 (n.getLsbD 1)) 2 (n.getLsbD 2))
      3 (n.getLsbD 3) = n := by decide

/-- The machine in a nibble-only transmission: `k` ticks on, RS at 0, the data lines at `d`, these lines left
(R99). -/
def State.sendingNibble (s : State) (k : Nat) (d : Nibble) (lines : List Line) : State :=
  { s with eng := { s.eng with RS := false, D := d }, prod := { s.prod with program := lines }, now := s.now + k }

/-- With the direct port open the first line of the expansion clears RS (R99). -/
theorem State.startNibble_open {s : State} (n : Nibble) (hinv : s.eng.Inv) (hopen : s.eng.dirReady = true) :
    s.startNibble n = s.sendingNibble 1 s.eng.D (sendNibbleRest n ++ s.prod.program) := by
  have htick : s.eng.tick s.cfg (portsOf (setLevelLine 5 false)) = { s.eng with RS := false } :=
    Engine.tick_setLevel s.cfg 5 false hinv hopen
  unfold State.startNibble State.runMacro
  rw [setLevelLine, heldProgram_direct_open _ _ hopen, ← setLevelLine]
  exact State.clock_silent htick (latchOf_same _ rfl)

/-- Settles O24: the first line of the expansion is an accepted `SETLEVEL 5, 0`. -/
theorem sendNibbleExpands : Obligations.SendNibbleExpands := by
  intro i n s hi hinv hopen
  rw [exec_sendNibble hi, State.startNibble_open n hinv hopen]
  rfl

/-- A direct-port line at the head of the program runs its instruction in a tick in which the port is open (R83). -/
theorem step_direct_open {s : State} {v : BitVec 6} {rest : List Line} {i : Instr}
    (hp : s.prod.program = .op (.dp v) :: rest) (hd : decodeDirect v = .ok i) (hi : i ≠ .advance)
    (hopen : s.eng.dirReady = true) : step s = exec i (s.withProgram rest) := by
  have hs : s.settled = s := State.settled_eq_self (by rw [hp]; rfl)
  have hdec : decodeHost (.dp v) = .ok i := hd
  rw [step_op (hs.symm ▸ hp) hdec, hs, State.issued_self (.inl hi), heldProgram_direct_open v rest hopen]

/-- A level line is a tick with its request, where the port is open (R83, R91). -/
theorem step_setLevelLine {s : State} {g : BitVec 3} {b : Bool} {rest : List Line}
    (hp : s.prod.program = .op (setLevelLine g b) :: rest) (hopen : s.eng.dirReady = true) :
    step s = .next ((s.withProgram rest).clock (In.direct false true g b)) :=
  step_direct_open hp (decodeDirect_setLevel g b) Instr.noConfusion hopen

/-- A pulse line is a tick with its request, where the port is open (R83, R95). -/
theorem step_pulseLine {s : State} {rest : List Line} (hp : s.prod.program = .op pulseLine :: rest)
    (hopen : s.eng.dirReady = true) :
    step s = .next ((s.withProgram rest).clock (In.direct true false 0 false)) :=
  step_direct_open (i := .pulseEnable) hp rfl Instr.noConfusion hopen

/-- The nibble line runs `sendNibble`, and is done with its expansion (R83, R84). -/
theorem step_nibble {s : State} {n : Nibble} {rest : List Line}
    (hp : s.prod.program = .op (.nib (encodeNibble n)) :: rest) :
    step s = .next ((s.withProgram rest).startNibble n) := by
  have hs : s.settled = s := State.settled_eq_self (by rw [hp]; rfl)
  have hdec : decodeHost (.nib (encodeNibble n)) = .ok (nibbleInstr n) := decodeNibble_encodeNibble_eq n
  have hissued : s.issued (nibbleInstr n) = nibbleInstr n := State.issued_self (.inl (nibbleInstr_ne_advance n))
  rw [step_op (hs.symm ▸ hp) hdec, hs, hissued, exec_sendNibble (nibbleInstr_cases n)]
  rfl

section
variable {s : State} (hinv : s.eng.Inv) (hopen : s.eng.dirReady = true)
include hinv hopen

/-- A data line's SETLEVEL in a nibble-only transmission (R99). -/
theorem State.sendingNibble_setLevel (k : Nat) (d : Nibble) {g : BitVec 3} (b : Bool) (rest : List Line)
    (hg : g.toNat ≤ 3) :
    step (s.sendingNibble k d (.op (setLevelLine g b) :: rest))
      = .next (s.sendingNibble (k + 1) (setDataLine d g.toNat b) rest) := by
  have htick : (s.sendingNibble k d rest).eng.tick s.cfg (In.direct false true g b)
      = (s.sendingNibble (k + 1) (setDataLine d g.toNat b) rest).eng :=
    (Engine.tick_setLevel (e := (s.sendingNibble k d rest).eng) s.cfg g b hinv hopen).trans
      (Engine.pinWrite_data b hg)
  rw [step_setLevelLine (s := s.sendingNibble k d (.op (setLevelLine g b) :: rest)) rfl hopen]
  exact congrArg Host.Outcome.next (State.clock_silent (s := s.sendingNibble k d rest) htick (latchOf_same _ rfl))

/-- The four data lines of the expansion put the nibble on the lines, whatever was on them (R99). -/
theorem State.sendingNibble_data (k : Nat) (n d : Nibble) (m : Nat) :
    Host.Core.run core (m + 4) (s.sendingNibble k d (sendNibbleRest n))
      = Host.Core.run core m (s.sendingNibble (k + 4) n [.op pulseLine]) := by
  have hlines := setDataLine_all d n
  rw [sendNibbleRest, run_succ (State.sendingNibble_setLevel hinv hopen k d _ _ (by decide)),
    run_succ (State.sendingNibble_setLevel hinv hopen _ _ _ _ (by decide)),
    run_succ (State.sendingNibble_setLevel hinv hopen _ _ _ _ (by decide)),
    run_succ (State.sendingNibble_setLevel hinv hopen _ _ _ _ (by decide))]
  exact congrArg (fun d => Host.Core.run core m (s.sendingNibble (k + 4) d [.op pulseLine])) hlines

/-- The PULSE of a nibble-only transmission raises EN (R99). -/
theorem State.sendingNibble_pulse (k : Nat) (d : Nibble) (rest : List Line) :
    step (s.sendingNibble k d (.op pulseLine :: rest)) = .next
      { s.sendingNibble (k + 1) d rest with eng := (s.sendingNibble (k + 1) d rest).eng.raiseEnable s.cfg } := by
  have htick : (s.sendingNibble k d rest).eng.tick s.cfg (In.direct true false 0 false)
      = (s.sendingNibble (k + 1) d rest).eng.raiseEnable s.cfg :=
    Engine.tick_pulseEnable (e := (s.sendingNibble k d rest).eng) s.cfg hinv hopen
  rw [step_pulseLine (s := s.sendingNibble k d (.op pulseLine :: rest)) rfl hopen]
  exact congrArg Host.Outcome.next (State.clock_silent (s := s.sendingNibble k d rest) htick (latchOf_on _ _ rfl))

end

/-- At the end of the program, a step during a pulse of the direct port is a tick without a request. -/
theorem State.passes_quiet {s : State} {k : Nat} (hp : s.prod.program = []) (h : s.eng.Pulsing k) :
    s.Passes 1 (s.eng.tick s.cfg In.quiet) (latchOf (s.now + 1) s.eng (s.eng.tick s.cfg In.quiet)) := by
  have hs : s.settled = s := State.settled_eq_self (by rw [hp]; rfl)
  obtain ⟨-, hdirect, -⟩ := h.inv
  obtain ⟨hidle, -⟩ := hdirect h.mode
  have hquiet : s.quietStep = .next (s.clock In.quiet) := State.quietStep_none (by simp [Engine.inFlight, hidle])
  exact State.passes_of_step (by rw [step_nil (hs.symm ▸ hp), hs, hquiet, State.clock])

/-- At the end of the program a pulse of the direct port runs to its fall (R98). -/
theorem State.passes_released {s : State} {k : Nat} (hp : s.prod.program = []) (h : s.eng.Pulsing k) :
    s.Passes (k + 1) s.eng.released [⟨s.now + (k + 1), s.eng.RS, s.eng.D⟩] := by
  have hpass := State.passes_quiet hp h
  induction k generalizing s with
  | zero =>
    obtain ⟨-, -, hlatch⟩ := h.tick_releases (p := s.cfg) (inp := In.quiet) rfl (s.now + 1)
    rw [hlatch, h.tick_eq rfl, h.pulseStep_zero] at hpass
    exact hpass
  | succ k ih =>
    have hnext := h.tick_pulsing (p := s.cfg) (inp := In.quiet) rfl
    have htick : s.eng.tick s.cfg In.quiet = { s.eng with pRem := k + 1 } := by
      rw [h.tick_eq rfl, h.pulseStep_succ]
      rfl
    rw [latchOf_on _ s.eng hnext.enable] at hpass
    rw [htick] at hpass hnext
    have hrest := ih (s := s.passed 1 { s.eng with pRem := k + 1 } []) hp hnext (State.passes_quiet hp hnext)
    rw [State.passed_now, Nat.add_assoc] at hrest
    rw [Nat.add_comm (k + 1) 1]
    exact hpass.trans hrest

/-- Settles O25: the expansion, four data lines, the PULSE, and then the pulse to its fall. -/
theorem sendNibbleLatchesItsNibble : Obligations.SendNibbleLatchesItsNibble := by
  intro n s hinv hopen hen hpos hprog
  obtain ⟨k, hk⟩ : ∃ k, s.cfg.pulseTicks = k + 1 := Nat.exists_eq_add_one.2 hpos
  have hfirst : step s = .next (s.sendingNibble 1 s.eng.D (sendNibbleRest n)) :=
    (step_nibble hprog).trans (congrArg Host.Outcome.next (State.startNibble_open n hinv hopen))
  have hpulse := State.sendingNibble_pulse hinv hopen 5 n []
  have hraised := Engine.raiseEnable_pulsing (e := (s.sendingNibble 6 n []).eng) hinv hopen hk
  rw [hk, show 6 + (k + 1) = (k + 1 + 1 + 4) + 1 by omega, run_succ hfirst,
    State.sendingNibble_data hinv hopen, run_succ hpulse]
  have hfall := State.passes_released (s := { s.sendingNibble 6 n [] with
    eng := (s.sendingNibble 6 n []).eng.raiseEnable s.cfg }) rfl hraised
  rw [Engine.released_raiseEnable (e := (s.sendingNibble 6 n []).eng) s.cfg hinv hopen hen] at hfall
  exact hfall

end Sys2Proof.Machine

namespace Sys2Proof.Machine

/-! # The instruction queue (41_instruction_queue) -/

/-! ## A push: accepted or waiting -/

/-- A word presented while there is room is appended, beside whatever else the tick does (R111). -/
theorem Engine.tick_push_room {e : Engine} (p : Params) (w : Word) (h : e.pushReady = true) :
    e.tick p (In.pushOf w) = { e.tick p In.quiet with q := (e.tick p In.quiet).q ++ [w] } := by
  have hquiet : e.tick p In.quiet
      = e.directStep (e.machineStep p (fieldsOf e.active) false) p In.quiet := Engine.tickWord_live rfl
  rw [hquiet]
  unfold Engine.tick
  rw [Engine.tickWord_live rfl, Engine.pushStep_eq, h]
  rfl

/-- A push into a full queue is a tick without it (R111, R112). -/
theorem State.clock_push_full {s : State} (w : Word) (h : s.eng.pushReady = false) :
    s.clock (In.pushOf w) = s.clock In.quiet := by
  rw [State.clock, Engine.tick_push_full s.cfg w h, State.clock]

/-- Settles O27: the push's part of the tick appends the word where there is room, and no latch event depends on
the queue. -/
theorem pushAppendsOrWaits : Obligations.PushAppendsOrWaits := by
  refine fun w s => ⟨fun hroom => ?_, fun hfull => ?_⟩
  · refine congrArg Host.Outcome.next ?_
    rw [State.clock, Engine.tick_push_room s.cfg w (Engine.pushReady_iff.2 hroom)]
    rfl
  · exact congrArg Host.Outcome.next (State.clock_push_full w (Engine.pushReady_false_iff.2 hfull))

/-! ## A push that waits for ever -/

/-- A full queue that nothing drains belongs to an idle machine: direct mode is idle (R41 a). -/
theorem Engine.stuckFull_iff {e : Engine} (h : e.Inv) :
    e.stuckFull ↔ e.pushReady = false ∧ e.state = .idle := by
  obtain ⟨-, hdirect, -⟩ := h
  exact ⟨fun ⟨hfull, hs⟩ => ⟨hfull, hs.elim id fun hr => (hdirect hr).1⟩, fun ⟨hfull, hs⟩ => ⟨hfull, .inl hs⟩⟩

/-- An idle machine without a trigger keeps its queue and stays idle (R129, R145). -/
theorem Engine.tick_quiet_idle {e : Engine} (p : Params) (h : e.state = .idle) :
    (e.tick p In.quiet).q = e.q ∧ (e.tick p In.quiet).state = .idle := by
  have hw : e.wantAdvance In.quiet.advance = false := by simp [Engine.wantAdvance, h, In.quiet]
  refine ⟨?_, (Engine.tickWord_idle_iff rfl hw).2 h⟩
  rw [e.tick_q p rfl, hw]
  exact List.append_nil _

/-- A full queue that nothing drains stays so in a tick without a request (R120, R243). -/
theorem Engine.tick_quiet_stuckFull {e : Engine} (p : Params) (hinv : e.Inv) (h : e.stuckFull) :
    (e.tick p In.quiet).q = e.q ∧ (e.tick p In.quiet).stuckFull := by
  obtain ⟨hfull, hs⟩ := (Engine.stuckFull_iff hinv).1 h
  obtain ⟨hq, hs'⟩ := e.tick_quiet_idle p hs
  exact ⟨hq, by rw [Engine.pushReady, hq]; exact hfull, .inl hs'⟩

/-- A push line at a full queue is held, and its step is a tick without a request (R83, R112). -/
theorem step_push_full {s : State} {w : Word} {rest : List Line} (hp : s.prod.program = .op (.push w) :: rest)
    (h : s.eng.pushReady = false) : step s = .next (s.clock In.quiet) := by
  have hs : s.settled = s := State.settled_eq_self (by rw [hp]; rfl)
  have hheld : heldProgram s.eng (.push w) rest = s.prod.program := by
    rw [hp]
    exact if_neg (by simp [lineDone, h])
  rw [step_op (hs.symm ▸ hp) rfl, hs, hheld, State.issued_self (.inl Instr.noConfusion)]
  exact congrArg Host.Outcome.next (State.clock_push_full w h)

/-- Settles O33: each step is a tick without a request, after which the push is still held before the same queue. -/
theorem pushIntoAStuckQueueWaitsForEver : Obligations.PushIntoAStuckQueueWaitsForEver := by
  intro s w rest k hinv hstuck hp
  induction k generalizing s with
  | zero => exact ⟨s, rfl, rfl, rfl, hstuck⟩
  | succ k ih =>
    have ⟨hfull, _⟩ := hstuck
    obtain ⟨hq, hstuck'⟩ := s.eng.tick_quiet_stuckFull s.cfg hinv hstuck
    obtain ⟨t, hrun, htq, htp, htstuck⟩ := ih (s.clock In.quiet) (Engine.tickWord_inv _ _ _ hinv) hstuck' hp
    exact ⟨t, (run_succ (step_push_full hp hfull) k).trans hrun, htq.trans hq, htp, htstuck⟩

/-! ## The order of the words -/

/-- Settles O34, by induction on the inputs: each tick moves the words as R115 says, and the runs join. -/
theorem queueIsFirstInFirstOut : Obligations.QueueIsFirstInFirstOut := by
  intro p e ins hins
  induction ins generalizing e with
  | nil => exact List.append_nil _
  | cons inp rest ih =>
    obtain ⟨hrst, hrest⟩ := List.forall_mem_cons.1 hins
    have hnext := ih (e.tick p inp) hrest
    calc e.q ++ (e.acceptedNow inp ++ (e.tick p inp).accepted p rest)
        = e.poppedNow inp ++ ((e.tick p inp).q ++ (e.tick p inp).accepted p rest) := by
          rw [← List.append_assoc, ← e.tick_conserves p hrst, List.append_assoc]
      _ = e.popped p (inp :: rest) ++ (e.after p (inp :: rest)).q := by
          rw [hnext, ← List.append_assoc]
          rfl

/-! ## The pop -/

/-- The oldest word leaves the queue for `active` (R113). -/
theorem Engine.dequeue_cons {n : Engine} {w : Word} {rest : List Word} (h : n.q = w :: rest) :
    n.dequeue = { n with q := rest, active := w } := by
  rw [n.dequeue_eq, h]
  rfl

/-- An empty queue has nothing to take, and nothing changes (R113). -/
theorem Engine.dequeue_nil {n : Engine} (h : n.q = []) : n.dequeue = n := by
  unfold Engine.dequeue
  rw [h]

/-- Settles O28: POP is the dequeue and no tick. -/
theorem popRemovesTheOldestWord : Obligations.PopRemovesTheOldestWord := by
  have hpop (s : State) : exec .pop s = .next { s with eng := s.eng.dequeue } := rfl
  refine fun s => ⟨fun w rest hq => ?_, fun hq => ?_⟩
  · rw [hpop, Engine.dequeue_cons hq]
  · rw [hpop, Engine.dequeue_nil hq]

end Sys2Proof.Machine

namespace Sys2Proof.Machine

/-! # The state machine (42_state_machine) -/

/-! ## Steps are ticks -/

/-- Settles O7: a step is one tick, whatever line it takes from the host. -/
theorem stepIsOneTick : Obligations.StepIsOneTick := by
  intro s t hstep
  obtain ⟨inp, prod, rfl, -⟩ := step_ticksTo hstep
  exact ⟨inp, rfl, rfl, rfl, rfl⟩

/-- A tick whose inputs ask for nothing but the trigger is the machine's part (R150). -/
theorem Engine.tickWord_noRequest {e : Engine} (p : Params) (f : WordFields) {inp : In}
    (h : In.requests { inp with advance := false } = false) :
    e.tickWord p f inp = e.machineStep p f inp.advance := by
  simp only [In.requests, Bool.or_eq_false_iff] at h
  obtain ⟨⟨⟨⟨⟨hrst, hpush⟩, -⟩, hrun⟩, hset⟩, hpulse⟩ := h
  simp [Engine.tickWord, Engine.pushStep, Engine.directStep, hrst, hpush, hrun, hset, hpulse]

/-- A tick without a request is the machine's part without a trigger. -/
theorem Engine.tick_noRequest {e : Engine} (p : Params) {inp : In} (h : inp.requests = false) :
    e.tick p inp = e.machineStep p (fieldsOf e.active) false := by
  have hadv : inp.advance = false := by
    simp only [In.requests, Bool.or_eq_false_iff] at h
    obtain ⟨⟨⟨⟨-, hadv⟩, -⟩, -⟩, -⟩ := h
    exact hadv
  have hrest : In.requests { inp with advance := false } = false := by simpa [In.requests, hadv] using h
  rw [Engine.tick, Engine.tickWord_noRequest p _ hrest, hadv]

/-! ## A finished run -/

/-- An engine at rest stays as it is in a tick without a request (R152). -/
theorem Engine.tick_noRequest_resting {e : Engine} (p : Params) {inp : In} (hinv : e.Inv) (hs : e.state = .idle)
    (hp : e.pPhase = .idle) (h : inp.requests = false) : e.tick p inp = e := by
  obtain ⟨-, -, -, -, -, hidle, -⟩ := hinv
  obtain ⟨ht, -⟩ := hidle hs
  rw [Engine.tick_noRequest p h, Engine.machineStep_resting p _ false hs ht hp]
  rfl

/-- A direct-port pattern without a request is rejected as one (R79). -/
theorem decodeDirect_noRequest {v : BitVec 6} (h : Line.requests (.op (.dp v)) = false) :
    decodeDirect v = .error .noRequest := by
  obtain ⟨hpulse, hset⟩ := Bool.or_eq_false_iff.1 h
  simp only [decodeDirect, hpulse, hset]

/-- Lines that make no request take a tick without one, when nothing is in flight, and leave such lines (R83). -/
theorem State.lineStep_noRequest {s : State} (hs : s.eng.state = .idle)
    (hl : ∀ l ∈ s.prod.program, l.requests = false) :
    ∃ inp lines, In.requests inp = false ∧ (∀ l ∈ lines, Line.requests l = false)
      ∧ s.lineStep = .next ((s.withProgram lines).clock inp) := by
  have hquiet (lines : List Line) :
      (s.withProgram lines).quietStep = .next ((s.withProgram lines).clock In.quiet) :=
    State.quietStep_none (by simp [Engine.inFlight, hs])
  unfold State.lineStep
  cases hp : s.prod.program with
  | nil =>
    have hself : s = s.withProgram [] := by rw [State.withProgram, ← hp]
    exact ⟨In.quiet, [], rfl, by simp, by rw [hself]; exact hquiet []⟩
  | cons l rest =>
    rw [hp] at hl
    obtain ⟨hhead, hrest⟩ := List.forall_mem_cons.1 hl
    have hself : s = s.withProgram (l :: rest) := by rw [State.withProgram, ← hp]
    cases l with
    | op h =>
      cases h with
      | dp v => exact ⟨In.quiet, rest, rfl, hrest, by simp only [decodeHost, decodeDirect_noRequest hhead, hquiet]⟩
      | _ => exact nomatch hhead
    | ports inp => exact ⟨inp, rest, hhead, hrest, rfl⟩
    | wait n =>
      cases n with
      | zero => exact ⟨In.quiet, _, rfl, hl, by rw [hself]; exact hquiet _⟩
      | succ n => exact ⟨In.quiet, .wait n :: rest, rfl, List.forall_mem_cons.2 ⟨rfl, hrest⟩, hquiet _⟩
    | waitIdle | setCursor a => exact ⟨In.quiet, _, rfl, hl, by rw [hself]; exact hquiet _⟩

/-- A step of a finished run moves time and the host's waits only (R152). -/
theorem State.over.step {s : State} (h : s.over) (hinv : s.eng.Inv) :
    ∃ t, step s = .next t ∧ t.eng = s.eng ∧ t.events = s.events ∧ t.cfg = s.cfg ∧ t.now = s.now + 1 ∧ t.over := by
  obtain ⟨hs, hq, hp, hlines⟩ := h
  obtain ⟨inp, lines, hinp, hleft, hstep⟩ :=
    State.lineStep_noRequest (s := s.settled) hs (settleLines_forall (Line.requests · = false) hlines)
  have htick : s.eng.tick s.cfg inp = s.eng := Engine.tick_noRequest_resting s.cfg hinv hs hp hinp
  refine ⟨_, hstep, htick, ?_, rfl, rfl, ?_⟩
  · rw [State.clock_events]
    exact (congrArg (s.events ++ ·) (latchOf_same _ (congrArg Engine.EN htick))).trans (List.append_nil _)
  · unfold State.over
    rw [State.clock_eng]
    simp only [State.withProgram_eng, State.settled_eng, State.withProgram_cfg, State.settled_cfg, htick]
    exact ⟨hs, hq, hp, hleft⟩

/-- Settles O11, by induction on the number of steps. -/
theorem finishedRunStaysFinished : Obligations.FinishedRunStaysFinished := by
  intro s k hinv hover
  induction k generalizing s with
  | zero => exact ⟨s, rfl, rfl, rfl, rfl, rfl, hover⟩
  | succ k ih =>
    obtain ⟨t, hstep, heng, hevents, hcfg, hnow, hover'⟩ := hover.step hinv
    obtain ⟨u, hrun, heng', hevents', hcfg', hnow', hover''⟩ := ih t (heng ▸ hinv) hover'
    exact ⟨u, (run_succ hstep k).trans hrun, heng'.trans heng, hevents'.trans hevents, hcfg'.trans hcfg,
      by omega, hover''⟩

/-! ## The instruction words, event by event -/

/-- A machine outside Idle is in run mode (R41 a). -/
theorem Engine.run_of_busy {e : Engine} (h : e.Inv) (hs : e.state ≠ .idle) : e.run = true := by
  obtain ⟨-, hdirect, -⟩ := h
  by_contra hr
  exact hs (hdirect (Bool.eq_false_of_not_eq_true hr)).1

/-- While the timer is armed the machine is busy and the sequencer at rest (R41 b). -/
theorem Engine.timing_of_armed {e : Engine} (h : e.Inv) (ht : e.tArmed = true) :
    e.run = true ∧ e.state ≠ .idle ∧ e.pPhase = .idle := by
  have ⟨_, _, harmed, _⟩ := h
  obtain ⟨hp, hs⟩ := harmed ht
  exact ⟨Engine.run_of_busy h hs, hs, hp⟩

/-- The pulse of a word in flight is a nibble's, and the timer is off (R41 c). -/
theorem Engine.pulsing_of_busy {e : Engine} (h : e.Inv) (hs : e.state ≠ .idle) (hp : e.pPhase ≠ .idle) :
    e.run = true ∧ (e.state = .sendingHigh ∨ e.state = .sendingLow) ∧ e.tArmed = false := by
  have ⟨_, _, _, hpulse, _⟩ := h
  have hr := Engine.run_of_busy h hs
  exact ⟨hr, hpulse hp hr⟩

/-- At an expiry the machine is busy and the sequencer at rest. -/
theorem Engine.timing_of_fire {e : Engine} (h : e.Inv) (hf : e.fire = true) :
    e.run = true ∧ e.state ≠ .idle ∧ e.pPhase = .idle :=
  Engine.timing_of_armed h (Engine.fire_iff.1 hf).1

/-- At the end of a word's pulse the timer is off. -/
theorem Engine.pulsing_of_pulseDone {e : Engine} (h : e.Inv) (hs : e.state ≠ .idle) (hd : e.pulseDone = true) :
    e.run = true ∧ (e.state = .sendingHigh ∨ e.state = .sendingLow) ∧ e.tArmed = false :=
  Engine.pulsing_of_busy h hs (by rw [(Engine.pulseDone_iff.1 hd).1]; exact PulsePhase.noConfusion)

/-- An instruction that is encoded as a word has the word's fields (R70, R76). -/
theorem wordOf_of_encode {i : Instr} {w : Word} (h : encode i = some (.iw w)) :
    wordOf i = some (fieldsOf w) := by
  cases hi : wordOf i with
  | none => cases i <;> simp [encode, wordOf] at h hi
  | some f =>
    rw [encode_of_wordOf hi] at h
    obtain rfl := Encoded.iw.inj (Option.some.inj h)
    rw [fieldsOf_pack]

/-- A tick after which EN has not fallen moves the engine and the time only. -/
theorem State.ticked_silent {s : State} {e : Engine} (h : latchOf (s.now + 1) s.eng e = []) :
    s.ticked e = { s with eng := e, now := s.now + 1 } := by
  rw [State.ticked, h, List.append_nil]

section
variable {i : Instr} {f : WordFields} {s : State} {e : Engine}

/-- In run mode an instruction word is the machine's part of a tick, with its own fields. -/
theorem exec_word (hi : wordOf i = some f) (hr : s.eng.run = true)
    (he : s.eng.machineStep s.cfg f true = e) : exec i s = .next (s.ticked e) := by
  rw [exec_wordOf s hi, State.wordTick, Engine.tickWord_trigger s.cfg f hr, he]

/-- Where EN does not fall the word moves the engine and the time only. -/
theorem exec_word_silent (hi : wordOf i = some f) (hr : s.eng.run = true)
    (he : s.eng.machineStep s.cfg f true = e) (hlatch : latchOf (s.now + 1) s.eng e = []) :
    exec i s = .next { s with eng := e, now := s.now + 1 } := by
  rw [exec_word hi hr he, State.ticked_silent hlatch]

end

/-- The advance operation touches no line: no latch event (R15, R131). -/
theorem latchOf_advanceOp (t : Nat) {s n : Engine} (p : Params) (h : n.EN = s.EN) :
    latchOf t s (n.advanceOp p) = [] := by
  refine latchOf_same t (Eq.trans ?_ h)
  cases hq : n.q with
  | nil => rw [Engine.advanceOp_nil hq]
  | cons w rest => rw [Engine.advanceOp_cons hq]

/-- The start of a pulse lets no EN fall (R15, R97). -/
theorem latchOf_startPulse (t : Nat) {s n : Engine} (p : Params) (h : n.EN = s.EN) :
    latchOf t s (n.startPulse p) = [] := by
  unfold Engine.startPulse
  split
  · exact latchOf_on t s rfl
  · exact latchOf_same t h

/-- The end of a pulse is a latch event with the levels on the lines, where EN follows the sequencer (R15, R98). -/
theorem latchOf_fall (t : Nat) {s n : Engine} (hen : s.EnTracks) (hd : s.pulseDone = true) (h : n.EN = false)
    (hRS : n.RS = s.RS) (hD : n.D = s.D) : latchOf t s n = [⟨t, s.RS, s.D⟩] := by
  simp [latchOf, hen.2 (Engine.pulseDone_iff.1 hd).1, h, hRS, hD]

/-- Settles O12: the trigger's advance operation takes the word. -/
theorem wordIsTakenFromTheQueue : Obligations.WordIsTakenFromTheQueue := by
  intro i w rest s henc hinv hs hr hq
  obtain ⟨-, -, -, -, -, hidle, -⟩ := hinv
  obtain ⟨ht, hp⟩ := hidle hs
  refine exec_word_silent (wordOf_of_encode henc) hr ?_ (latchOf_same _ rfl)
  rw [Engine.machineStep_resting s.cfg _ true hs ht (hp hr), hr]
  exact Engine.advanceOp_cons hq

/-- At the expiry that drives a nibble, the lines take it and its pulse starts, through the setup phase or at once
(R97). -/
theorem exec_word_drives {i : Instr} {f : WordFields} {s : State} {nib : Nibble} (hi : wordOf i = some f)
    (hr : s.eng.run = true) (he : s.eng.machineStep s.cfg f true
      = (Engine.drive { s.eng with tArmed := false, tRem := 0 } f.isData nib).startPulse s.cfg) :
    exec i s = .next { s with
      eng := if s.cfg.setupTicks = 0
        then { s.eng with tArmed := false, tRem := 0, RS := f.isData, D := nib,
                          EN := true, pPhase := .high, pRem := s.cfg.pulseTicks }
        else { s.eng with tArmed := false, tRem := 0, RS := f.isData, D := nib,
                          pPhase := .setup, pRem := s.cfg.setupTicks }
      now := s.now + 1 } := by
  rw [exec_word_silent hi hr he (latchOf_startPulse _ s.cfg rfl)]
  rfl

/-- While a nibble is sent no advance operation runs (R130). -/
theorem Engine.wantAdvance_sending {e : Engine} (adv : Bool) (hs : e.state = .sendingHigh ∨ e.state = .sendingLow) :
    e.wantAdvance adv = false := by
  obtain hs | hs := hs <;> simp [Engine.wantAdvance, hs]

/-- In Executing the advance operation runs at the expiry (R137). -/
theorem Engine.wantAdvance_executing {e : Engine} (adv : Bool) (hs : e.state = .executing) :
    e.wantAdvance adv = e.fire := by
  simp [Engine.wantAdvance, hs]

/-- In Idle the advance operation runs at a trigger in run mode (R129). -/
theorem Engine.wantAdvance_idle {e : Engine} (adv : Bool) (hs : e.state = .idle) :
    e.wantAdvance adv = (adv && e.run) := by
  simp [Engine.wantAdvance, hs]

/-- A tick with no advance operation and no end of a pulse keeps the phase (R145). -/
theorem Engine.tickWord_state_stays {s : Engine} {p : Params} {f : WordFields} {inp : In} (h : inp.rst = false)
    (hw : s.wantAdvance inp.advance = false) (hd : s.pulseDone = false) :
    (s.tickWord p f inp).state = s.state := by
  rw [Engine.tickWord_live h, Engine.pushStep_state, Engine.directStep_state, Engine.machineStep, hw]
  unfold Engine.transmit
  cases hs : s.state with
  | idle => simp [hs]
  | executing =>
    have hf : s.fire = false := (Engine.wantAdvance_executing _ hs).symm.trans hw
    simp [hs, hf]
  | sendingHigh | sendingLow => cases s.fire <;> simp [hs, hd]

/-- Settles O13: the expiry in SendingHigh drives the high nibble, and only the end of the pulse leaves the phase. -/
theorem wordDrivesItsHighNibble : Obligations.WordDrivesItsHighNibble := by
  refine ⟨fun i f s _ hi hinv hs hf => ?_, fun p e inp hrst _ hs hd => ?_⟩
  · obtain ⟨hr, -, hp⟩ := Engine.timing_of_fire hinv hf
    exact exec_word_drives hi hr (Engine.machineStep_fire_high s.cfg f true hs hp hf)
  · exact (Engine.tickWord_state_stays hrst (Engine.wantAdvance_sending _ (.inl hs)) hd).trans hs

/-- Settles O15: the expiry in SendingLow drives the low nibble. -/
theorem wordDrivesItsLowNibble : Obligations.WordDrivesItsLowNibble := by
  intro i f s _ hi hinv hs hf
  obtain ⟨hr, -, hp⟩ := Engine.timing_of_fire hinv hf
  exact exec_word_drives hi hr (Engine.machineStep_fire_low s.cfg f true hs hp hf)

/-- Where a nibble's pulse ends, its levels are latched (R15, R134, R136). -/
theorem exec_word_latches {i : Instr} {f : WordFields} {s : State} {e : Engine} (hi : wordOf i = some f)
    (hr : s.eng.run = true) (he : s.eng.machineStep s.cfg f true = e) (hen : s.eng.EnTracks)
    (hd : s.eng.pulseDone = true) (h : e.EN = false) (hRS : e.RS = s.eng.RS) (hD : e.D = s.eng.D) :
    exec i s = .next { s with
      eng := e, now := s.now + 1, events := s.events ++ [⟨s.now + 1, s.eng.RS, s.eng.D⟩] } := by
  rw [exec_word hi hr he, State.ticked, latchOf_fall _ hen hd h hRS hD]

/-- Settles O14: the end of the high nibble's pulse arms the minimal timer. -/
theorem wordEndsItsHighPulse : Obligations.WordEndsItsHighPulse := by
  intro i f s hi hinv hen hs hd
  obtain ⟨hr, -, ht⟩ := Engine.pulsing_of_pulseDone hinv (by simp [hs]) hd
  exact exec_word_latches hi hr (Engine.machineStep_done_high s.cfg f true hs ht hd) hen hd rfl rfl rfl

/-- Settles O16: the end of the low nibble's pulse arms the execution delay. -/
theorem wordStartsItsExecutionDelay : Obligations.WordStartsItsExecutionDelay := by
  intro i f s _ hi hinv hen hs hd
  obtain ⟨hr, -, ht⟩ := Engine.pulsing_of_pulseDone hinv (by simp [hs]) hd
  exact exec_word_latches hi hr (Engine.machineStep_done_low s.cfg f true hs ht hd) hen hd rfl rfl rfl

/-- A busy machine's part of the tick does not look at the trigger (R130, R137). -/
theorem Engine.machineStep_busy {e : Engine} (p : Params) (f : WordFields) (a b : Bool) (hs : e.state ≠ .idle) :
    e.machineStep p f a = e.machineStep p f b := by
  unfold Engine.machineStep
  rw [Engine.wantAdvance_busy a b hs]

/-- Settles O17: the expiry in Executing is the advance operation's, with or without a trigger. -/
theorem wordEndsAndAdvances : Obligations.WordEndsAndAdvances := by
  refine ⟨fun i f s hi hinv hs hf => ?_, fun e p inp hs _ => ?_⟩
  · obtain ⟨hr, -, hp⟩ := Engine.timing_of_fire hinv hf
    have hstep := Engine.machineStep_fire_executing s.cfg f true hs hp hf
    cases hq : s.eng.q with
    | nil => exact exec_word_silent hi hr (hstep.trans (Engine.advanceOp_nil hq)) (latchOf_same _ rfl)
    | cons w rest => exact exec_word_silent hi hr (hstep.trans (Engine.advanceOp_cons hq)) (latchOf_same _ rfl)
  · unfold Engine.tick Engine.tickWord
    rw [Engine.machineStep_busy (e := e) p _ true false (by simp [hs])]
    rfl

/-- Settles O18: the timer counts, or the sequencer does, and neither lets EN fall. -/
theorem wordCountsBetweenEvents : Obligations.WordCountsBetweenEvents := by
  intro i f s hi hinv hs
  have hpulse (hp : s.eng.pPhase ≠ .idle) (hd : s.eng.pulseDone = false) {e : Engine}
      (he : s.eng.pulseStep s.cfg = e) (hlatch : latchOf (s.now + 1) s.eng e = []) :
      exec i s = .next { s with eng := e, now := s.now + 1 } := by
    obtain ⟨hr, hsend, ht⟩ := Engine.pulsing_of_busy hinv hs hp
    exact exec_word_silent hi hr ((Engine.machineStep_pulse s.cfg f true hsend ht hd).trans he) hlatch
  refine ⟨fun ht hf => ?_, fun hp hrem => ?_, fun hp hrem => ?_, fun hp hrem => ?_⟩
  · obtain ⟨hr, -, hp⟩ := Engine.timing_of_armed hinv ht
    exact exec_word_silent hi hr (Engine.machineStep_count s.cfg f true hs ht hp hf) (latchOf_same _ rfl)
  · exact hpulse (by simp [hp]) (Engine.pulseDone_idle (by simp [hp]))
      (by simp [Engine.pulseStep, hp, Nat.not_le.2 hrem]) (latchOf_same _ rfl)
  · exact hpulse (by simp [hp]) (Engine.pulseDone_idle (by simp [hp]))
      (by simp [Engine.pulseStep, hp, hrem, Engine.raiseEnable]) (latchOf_on _ _ rfl)
  · exact hpulse (by simp [hp]) (by simp [Engine.pulseDone, Nat.not_le.2 hrem])
      (by simp [Engine.pulseStep, hp, Nat.not_le.2 hrem]) (latchOf_same _ rfl)

/-- The word in flight is `active`, and the machine is busy with it (R22). -/
theorem Engine.inFlight_eq_some {e : Engine} {w : Word} (h : e.inFlight = some w) :
    e.state ≠ .idle ∧ e.active = w := by
  unfold Engine.inFlight at h
  cases hs : e.state with
  | idle => simp [hs] at h
  | sendingHigh | sendingLow | executing => exact ⟨Phase.noConfusion, by simpa [hs] using h⟩

/-- Settles O19: the trigger that exec of a word gives is lost on a busy machine. -/
theorem wordInFlightIsTheTick : Obligations.WordInFlightIsTheTick := by
  intro s w hw
  obtain ⟨hs, rfl⟩ := Engine.inFlight_eq_some hw
  have htick : s.eng.tickWord s.cfg (fieldsOf s.eng.active) In.trigger = s.eng.tick s.cfg In.quiet := by
    rw [Engine.tick_noRequest s.cfg rfl, Engine.tickWord_noRequest s.cfg _ rfl]
    exact Engine.machineStep_busy s.cfg _ true false hs
  rw [exec_decodeWord, State.wordTick, htick, State.clock]

/-! ## The trigger and the mode -/

/-- Settles O29: the trigger's tick is the advance operation of a machine at rest. -/
theorem advanceStartsAnIdleMachine : Obligations.AdvanceStartsAnIdleMachine := by
  intro s hinv hr hs
  obtain ⟨-, -, -, -, -, hidle, -⟩ := hinv
  obtain ⟨ht, hp⟩ := hidle hs
  have hexec : exec .advance s = .next (s.clock In.trigger) := rfl
  have htick : s.eng.tick s.cfg In.trigger = s.eng.advanceOp s.cfg := by
    rw [Engine.tick, Engine.tickWord_trigger s.cfg _ hr,
      Engine.machineStep_resting s.cfg _ true hs ht (hp hr), hr]
    rfl
  rw [hexec, State.clock_silent htick (latchOf_advanceOp _ s.cfg rfl)]
  cases hq : s.eng.q with
  | nil => rw [Engine.advanceOp_nil hq, ← hs]
  | cons w rest => rw [Engine.advanceOp_cons hq]

/-- Settles O30: an open direct port takes `set_run`, and nothing else is requested. -/
theorem setRunEntersRunMode : Obligations.SetRunEntersRunMode := by
  intro s hinv hr hp
  have hopen : s.eng.dirReady = true := Engine.dirReady_iff.2 ⟨hr, hp⟩
  have htick : s.eng.tick s.cfg In.goRun = { s.eng with run := true } := by
    rw [Engine.tick_open s.cfg In.goRun hinv hopen rfl, Engine.directStep_open _ s.cfg _ hopen]
    simp [Engine.pushStep, Engine.levelStep, In.goRun]
  exact congrArg Host.Outcome.next (State.clock_silent htick (latchOf_same _ rfl))

/-! ## The transition graph -/

/-- Under the invariant the timer does not expire in the tick in which a pulse ends (R148). -/
theorem Engine.not_fire_and_pulseDone {e : Engine} (h : e.Inv) : ¬ (e.fire = true ∧ e.pulseDone = true) := by
  rintro ⟨hf, hd⟩
  obtain ⟨-, -, hp⟩ := Engine.timing_of_fire h hf
  exact absurd (hp.symm.trans (Engine.pulseDone_iff.1 hd).1) PulsePhase.noConfusion

/-- In run mode a pulse ends only while a nibble is sent (R148). -/
theorem Engine.pulseDone_off {e : Engine} (h : e.Inv) (hr : e.run = true) (hs : e.state = .idle ∨ e.state = .executing) :
    e.pulseDone = false := by
  obtain ⟨-, -, -, hpulse, -⟩ := h
  by_contra hd
  rw [Bool.not_eq_false] at hd
  obtain ⟨hsend, -⟩ := hpulse (by simp [(Engine.pulseDone_iff.1 hd).1]) hr
  obtain hs | hs := hs <;> simp [hs] at hsend

/-- The end of a pulse moves the machine on to the low nibble or to the execution delay (R134, R136). -/
theorem Engine.tick_state_pulseDone {e : Engine} (p : Params) {inp : In} (hinv : e.Inv) (hrst : inp.rst = false)
    (hs : e.state ≠ .idle) (hd : e.pulseDone = true) :
    (e.tick p inp).state = if e.state = .sendingHigh then .sendingLow else .executing := by
  obtain ⟨hr, hsend, ht⟩ := Engine.pulsing_of_pulseDone hinv hs hd
  rw [Engine.tick, Engine.tickWord_runMode hrst hr, Engine.pushStep_state]
  obtain hs | hs := hsend
  · rw [Engine.machineStep_done_high p _ _ hs ht hd, hs]; rfl
  · rw [Engine.machineStep_done_low p _ _ hs ht hd, hs]; rfl

/-- Settles O38: a tick with an advance operation, a tick that ends a pulse, and a tick with neither. -/
theorem phaseFollowsTheCycle : Obligations.PhaseFollowsTheCycle := by
  intro p e inp hinv hrst
  have hadvance (hw : e.wantAdvance inp.advance = true) :
      (e.tick p inp).state = if e.q = [] then .idle else .sendingHigh := Engine.tickWord_state_advance hrst hw
  have hstays (hw : e.wantAdvance inp.advance = false) (hd : e.pulseDone = false) :
      (e.tick p inp).state = e.state := Engine.tickWord_state_stays hrst hw hd
  cases hs : e.state with
  | idle =>
    have hw := e.wantAdvance_idle inp.advance hs
    cases hgo : inp.advance && e.run with
    | true =>
      obtain ⟨hadv, hr⟩ := Bool.and_eq_true_iff.1 hgo
      by_cases hq : e.q = [] <;> simp [hadvance (hw.trans hgo), hadv, hr, hq]
    | false =>
      have hno : ¬ (inp.advance = true ∧ e.run = true ∧ e.q ≠ []) := fun ⟨hadv, hr, _⟩ => by simp [hadv, hr] at hgo
      exact ((Engine.tickWord_idle_iff hrst (hw.trans hgo)).2 hs).trans (if_neg hno).symm
  | executing =>
    have hw := e.wantAdvance_executing inp.advance hs
    cases hf : e.fire with
    | true => by_cases hq : e.q = [] <;> simp [hadvance (hw.trans hf), hq]
    | false =>
      have hd := Engine.pulseDone_off hinv (Engine.run_of_busy hinv (by simp [hs])) (.inr hs)
      exact (hstays (hw.trans hf) hd).trans hs
  | sendingHigh | sendingLow =>
    cases hd : e.pulseDone with
    | true => simpa [hs] using Engine.tick_state_pulseDone p hinv hrst (by simp [hs]) hd
    | false => exact (hstays (Engine.wantAdvance_sending _ (by simp [hs])) hd).trans hs

/-- Settles O39: the invariant excludes the events, and the phases that expect none pass them by. -/
theorem eventsThatCannotOccur : Obligations.EventsThatCannotOccur := by
  refine ⟨fun e hinv => ⟨fun hs => ?_, Engine.pulseDone_off hinv, Engine.not_fire_and_pulseDone hinv⟩,
    fun p e hs => ?_⟩
  · obtain ⟨-, -, -, -, -, hidle, -⟩ := hinv
    exact Engine.fire_off (hidle hs).1
  · have htick : e.tick p In.quiet = (e.pulseStep p).timerStep := by
      rw [Engine.tick_noRequest p rfl]
      obtain hs | ⟨hs, hf⟩ := hs
      · simp [Engine.machineStep, Engine.transmit, Engine.wantAdvance, hs]
      · simp [Engine.machineStep, Engine.transmit, Engine.wantAdvance, hs, hf]
    refine ⟨htick, ?_⟩
    rw [htick, Engine.timerStep_eq, Engine.pulseStep_frame]

end Sys2Proof.Machine

namespace Sys2Proof.Machine

/-! ## The latch events of run mode -/

@[simp] theorem Engine.startPulse_RS (n : Engine) (p : Params) : (n.startPulse p).RS = n.RS := by
  rw [n.startPulse_frame p]
@[simp] theorem Engine.startPulse_D (n : Engine) (p : Params) : (n.startPulse p).D = n.D := by
  rw [n.startPulse_frame p]

/-- The advance operation owes the two nibbles of the word it takes (R131, R144). -/
theorem Engine.advanceOp_owed {n : Engine} (p : Params) (hp : n.pPhase = .idle) :
    (n.advanceOp p).owed = (n.q.take 1).flatMap wordLevels := by
  cases hq : n.q with
  | nil => rw [Engine.advanceOp_nil hq]; rfl
  | cons w rest => rw [Engine.advanceOp_cons hq]; simp [Engine.owed, wordLevels, hp]

/-- A nibble whose pulse has begun is owed with the levels on the lines (R133, R135, R144). -/
theorem Engine.owed_pulsing {e : Engine} (hs : e.state = .sendingHigh ∨ e.state = .sendingLow)
    (hp : e.pPhase ≠ .idle) :
    e.owed = (e.RS, e.D) ::
      if e.state = .sendingHigh then [((fieldsOf e.active).isData, (fieldsOf e.active).lo)] else [] := by
  obtain hs | hs := hs <;> simp [Engine.owed, hs, hp]

/-- Between its events a pulse keeps what is owed, and lets no EN fall (R98). -/
theorem Engine.pulseStep_owed {e : Engine} (p : Params) (t : Nat) (hen : e.EnTracks)
    (hs : e.state = .sendingHigh ∨ e.state = .sendingLow) (hp : e.pPhase ≠ .idle) (hd : e.pulseDone = false) :
    latchOf t e (e.pulseStep p) = [] ∧ (e.pulseStep p).owed = e.owed := by
  have hp' : (e.pulseStep p).pPhase ≠ .idle := by simp [Engine.pulseStep_pPhase_idle_iff, hp, hd]
  refine ⟨?_, ?_⟩
  · cases hph : e.pPhase with
    | idle => exact absurd hph hp
    | setup => exact latchOf_off t _ (by simpa [Engine.EnTracks, hph] using hen)
    | high =>
      have hrem : ¬ e.pRem ≤ 1 := by simpa [Engine.pulseDone, hph] using hd
      exact latchOf_same t (by simp [Engine.pulseStep, hph, hrem])
  · rw [Engine.owed_pulsing (by simpa using hs) hp', Engine.owed_pulsing hs hp]
    simp

/-- The account of a tick from `e` to `n` that takes these words: what was owed and what is taken is what is latched
and what is owed then (R144). -/
def Engine.Accounts (e n : Engine) (taken : List Word) (t : Nat) : Prop :=
  e.owed ++ taken.flatMap wordLevels = (latchOf t e n).map Latch.levels ++ n.owed

/-- A tick without a latch event that takes nothing keeps what is owed. -/
theorem Engine.accounts_silent {e n : Engine} {t : Nat} (hlatch : latchOf t e n = []) (howed : n.owed = e.owed) :
    e.Accounts n [] t := by
  rw [Engine.Accounts, hlatch, howed]
  exact List.append_nil _

/-- An advance operation after which nothing of the word before is owed accounts for the word it takes (R131). -/
theorem Engine.accounts_advanceOp {e n : Engine} (p : Params) (t : Nat) (howed : e.owed = [])
    (hen : n.EN = e.EN) (hp : n.pPhase = .idle) : e.Accounts (n.advanceOp p) (n.q.take 1) t := by
  rw [Engine.Accounts, howed, latchOf_advanceOp t p hen, Engine.advanceOp_owed p hp]
  rfl

/-- The expiry that drives a nibble puts on the lines what was owed of it (R133, R135). -/
theorem Engine.accounts_drive {e : Engine} (p : Params) (t : Nat) {nib : Nibble}
    (hs : e.state = .sendingHigh ∧ nib = (fieldsOf e.active).hi ∨ e.state = .sendingLow ∧ nib = (fieldsOf e.active).lo)
    (hp : e.pPhase = .idle) :
    e.Accounts ((Engine.drive { e with tArmed := false, tRem := 0 } (fieldsOf e.active).isData nib).startPulse p)
      [] t := by
  have hsend : e.state = .sendingHigh ∨ e.state = .sendingLow := hs.imp And.left And.left
  refine Engine.accounts_silent (latchOf_startPulse t p rfl) ?_
  rw [Engine.owed_pulsing (by simpa using hsend) (Engine.startPulse_pPhase_ne_idle _ p)]
  obtain ⟨hs, rfl⟩ | ⟨hs, rfl⟩ := hs <;> simp [Engine.owed, hs, hp]

/-- The account while the timer is at work. -/
theorem Engine.machineStep_accounts_timing {e : Engine} (p : Params) (adv : Bool) (t : Nat) (hs : e.state ≠ .idle)
    (ht : e.tArmed = true) (hp : e.pPhase = .idle) :
    e.Accounts (e.machineStep p (fieldsOf e.active) adv) (if e.wantAdvance adv then e.q.take 1 else []) t := by
  cases hf : e.fire with
  | false =>
    have hw : e.wantAdvance adv = false := by
      cases hst : e.state with
      | idle => exact absurd hst hs
      | sendingHigh => exact e.wantAdvance_sending adv (.inl hst)
      | sendingLow => exact e.wantAdvance_sending adv (.inr hst)
      | executing => exact (e.wantAdvance_executing adv hst).trans hf
    rw [Engine.machineStep_count p _ adv hs ht hp hf, hw]
    exact Engine.accounts_silent (latchOf_same t rfl) rfl
  | true =>
    cases hst : e.state with
    | idle => exact absurd hst hs
    | sendingHigh =>
      rw [Engine.machineStep_fire_high p _ adv hst hp hf, e.wantAdvance_sending adv (.inl hst)]
      exact Engine.accounts_drive p t (.inl ⟨hst, rfl⟩) hp
    | sendingLow =>
      rw [Engine.machineStep_fire_low p _ adv hst hp hf, e.wantAdvance_sending adv (.inr hst)]
      exact Engine.accounts_drive p t (.inr ⟨hst, rfl⟩) hp
    | executing =>
      rw [Engine.machineStep_fire_executing p _ adv hst hp hf, e.wantAdvance_executing adv hst, hf]
      exact Engine.accounts_advanceOp (n := { e with state := .idle, tArmed := false, tRem := 0 }) p t
        (by simp [Engine.owed, hst]) rfl hp

/-- The account while a nibble is pulsed. -/
theorem Engine.machineStep_accounts_pulsing {e : Engine} (p : Params) (adv : Bool) (t : Nat) (hen : e.EnTracks)
    (hs : e.state = .sendingHigh ∨ e.state = .sendingLow) (ht : e.tArmed = false) (hp : e.pPhase ≠ .idle) :
    e.Accounts (e.machineStep p (fieldsOf e.active) adv) [] t := by
  cases hd : e.pulseDone with
  | false =>
    rw [Engine.machineStep_pulse p _ adv hs ht hd]
    obtain ⟨hlatch, howed⟩ := Engine.pulseStep_owed p t hen hs hp hd
    exact Engine.accounts_silent hlatch howed
  | true =>
    have hon : e.EN = true := hen.2 (Engine.pulseDone_iff.1 hd).1
    rw [Engine.Accounts, Engine.owed_pulsing hs hp]
    obtain hst | hst := hs
    · rw [Engine.machineStep_done_high p _ adv hst ht hd]
      simp [Engine.owed, latchOf, Latch.levels, hst, hon]
    · rw [Engine.machineStep_done_low p _ adv hst ht hd]
      simp [Engine.owed, latchOf, Latch.levels, hst, hon]

/-- The account of the machine's part of a tick in run mode. -/
theorem Engine.machineStep_accounts {e : Engine} (p : Params) (adv : Bool) (t : Nat) (hsit : e.Situation)
    (hen : e.EnTracks) (hr : e.run = true) :
    e.Accounts (e.machineStep p (fieldsOf e.active) adv) (if e.wantAdvance adv then e.q.take 1 else []) t := by
  cases hsit with
  | resting hs ht _ hp _ =>
    rw [Engine.machineStep_resting p _ adv hs ht hp, e.wantAdvance_idle adv hs]
    split
    · exact Engine.accounts_advanceOp p t (by simp [Engine.owed, hs]) rfl hp
    · exact Engine.accounts_silent (latchOf_same t rfl) rfl
  | directPulse hr' _ _ _ _ => simp [hr] at hr'
  | timing _ hs ht hp _ => exact Engine.machineStep_accounts_timing p adv t hs ht hp
  | pulsing _ hs ht _ hp =>
    rw [e.wantAdvance_sending adv hs]
    exact Engine.machineStep_accounts_pulsing p adv t hen hs ht hp

/-- In run mode EN follows the sequencer whatever is requested: the direct port is closed (R28, R41 f). -/
theorem Engine.tick_enTracks_runMode {e : Engine} (p : Params) {inp : In} (h : e.Inv) (hen : e.EnTracks)
    (hr : e.run = true) (hrst : inp.rst = false) : (e.tick p inp).EnTracks := by
  obtain ⟨-, hclosed⟩ := runModeClosesTheDirectPort p e inp hr hrst
  rw [hclosed]
  exact Engine.tickWord_enTracks p _ h hen rfl

/-- The account of a tick in run mode: the push changes neither the lines nor what is owed. -/
theorem Engine.tick_accounts {e : Engine} (p : Params) {inp : In} (t : Nat) (h : e.Inv) (hen : e.EnTracks)
    (hr : e.run = true) (hrst : inp.rst = false) :
    e.Accounts (e.tick p inp) (e.poppedNow inp) t := by
  obtain ⟨-, hsit⟩ := Engine.inv_iff_situation.1 h
  rw [e.poppedNow_eq hrst, Engine.tick, Engine.tickWord_runMode hrst hr, Engine.pushStep_eq]
  exact Engine.machineStep_accounts p inp.advance t hsit hen hr

/-- Settles O42, by induction on the inputs: each tick keeps the account, and the runs join. -/
theorem latchesAreTheNibblesOfTheWords : Obligations.LatchesAreTheNibblesOfTheWords := by
  intro p t e ins hins hinv hen hr
  induction ins generalizing e t with
  | nil => exact List.append_nil _
  | cons inp rest ih =>
    obtain ⟨hrst, hrest⟩ := List.forall_mem_cons.1 hins
    obtain ⟨hr', -⟩ := runModeClosesTheDirectPort p e inp hr hrst
    have hfirst : e.owed ++ (e.poppedNow inp).flatMap wordLevels = _ :=
      Engine.tick_accounts p (t + 1) hinv hen hr hrst
    have hnext := ih (t + 1) (e.tick p inp) hrest (Engine.tickWord_inv p _ inp hinv)
      (Engine.tick_enTracks_runMode p hinv hen hr hrst) hr'
    calc e.owed ++ (e.poppedNow inp ++ (e.tick p inp).popped p rest).flatMap wordLevels
        = (latchOf (t + 1) e (e.tick p inp)).map Latch.levels
            ++ ((e.tick p inp).owed ++ ((e.tick p inp).popped p rest).flatMap wordLevels) := by
          rw [List.flatMap_append, ← List.append_assoc, hfirst, List.append_assoc]
      _ = (e.latches p t (inp :: rest)).map Latch.levels ++ (e.after p (inp :: rest)).owed := by
          rw [hnext, Engine.latches, List.map_append, List.append_assoc]
          rfl

end Sys2Proof.Machine

namespace Sys2Proof.Machine

/-! ## A word runs to completion -/

/-- Ticks to the end of the pulse of the nibble at hand, that tick included: the timer, the setup phase and the high
phase still to come (R97, R98, R128). -/
def Engine.nibbleLeft (p : Params) (e : Engine) : Nat :=
  match e.pPhase with
  | .idle  => max e.tRem.toNat 1 + (p.setupTicks + p.pulseTicks)
  | .setup => max e.pRem 1 + p.pulseTicks
  | .high  => max e.pRem 1

/-- Ticks to the advance operation of the word in flight, that tick included (R141, R147). -/
def Engine.ticksLeft (p : Params) (e : Engine) : Nat :=
  match e.state with
  | .idle        => 0
  | .sendingHigh =>
    e.nibbleLeft p + (p.minTicks.toNat + (p.setupTicks + p.pulseTicks)) + (fieldsOf e.active).timerLoad.toNat
  | .sendingLow  => e.nibbleLeft p + (fieldsOf e.active).timerLoad.toNat
  | .executing   => max e.tRem.toNat 1

theorem Engine.ticksLeft_high {e : Engine} (p : Params) (h : e.state = .sendingHigh) :
    e.ticksLeft p = e.nibbleLeft p + (p.minTicks.toNat + (p.setupTicks + p.pulseTicks))
      + (fieldsOf e.active).timerLoad.toNat := by
  simp only [Engine.ticksLeft, h]

theorem Engine.ticksLeft_low {e : Engine} (p : Params) (h : e.state = .sendingLow) :
    e.ticksLeft p = e.nibbleLeft p + (fieldsOf e.active).timerLoad.toNat := by
  simp only [Engine.ticksLeft, h]

theorem Engine.ticksLeft_executing {e : Engine} (p : Params) (h : e.state = .executing) :
    e.ticksLeft p = max e.tRem.toNat 1 := by
  simp only [Engine.ticksLeft, h]

theorem Engine.nibbleLeft_timer {e : Engine} (p : Params) (h : e.pPhase = .idle) :
    e.nibbleLeft p = max e.tRem.toNat 1 + (p.setupTicks + p.pulseTicks) := by
  simp only [Engine.nibbleLeft, h]

theorem Engine.nibbleLeft_pos (p : Params) (e : Engine) : 1 ≤ e.nibbleLeft p := by
  unfold Engine.nibbleLeft
  split <;> omega

/-- In the last tick of a pulse one tick is left of it (R98). -/
theorem Engine.nibbleLeft_done {e : Engine} (p : Params) (hd : e.pulseDone = true) : e.nibbleLeft p = 1 := by
  obtain ⟨hp, hrem⟩ := Engine.pulseDone_iff.1 hd
  simp only [Engine.nibbleLeft, hp]
  omega

section
variable {p : Params} (hpulse : 1 ≤ p.pulseTicks)
include hpulse

/-- A pulse that starts has its setup phase and its high phase before it, also where there is no setup phase (R97). -/
theorem Engine.nibbleLeft_startPulse (n : Engine) :
    (n.startPulse p).nibbleLeft p = p.setupTicks + p.pulseTicks := by
  unfold Engine.startPulse
  split <;> simp only [Engine.nibbleLeft, Engine.raiseEnable_pPhase, Engine.raiseEnable_pRem] <;> omega

/-- Each step of the sequencer before the last is a tick less (R98). -/
theorem Engine.nibbleLeft_pulseStep {e : Engine} (hp : e.pPhase ≠ .idle) (hd : e.pulseDone = false) :
    (e.pulseStep p).nibbleLeft p + 1 = e.nibbleLeft p := by
  unfold Engine.pulseStep
  cases hph : e.pPhase with
  | idle => exact absurd hph hp
  | setup => by_cases hrem : e.pRem ≤ 1 <;> simp [Engine.nibbleLeft, hph, hrem] <;> omega
  | high =>
    have hrem : ¬ e.pRem ≤ 1 := by simpa [Engine.pulseDone, hph] using hd
    simp [Engine.nibbleLeft, hph, hrem]
    omega

/-- The machine's part of a tick before the advance operation, while the timer is at work. -/
theorem Engine.ticksLeft_machineStep_timing {e : Engine} (adv : Bool) (hs : e.state ≠ .idle)
    (ht : e.tArmed = true) (hp : e.pPhase = .idle) (hw : e.wantAdvance adv = false) :
    (e.machineStep p (fieldsOf e.active) adv).ticksLeft p + 1 = e.ticksLeft p := by
  cases hf : e.fire with
  | false =>
    have hrem : 1 < e.tRem.toNat := by simpa [Engine.fire, ht] using hf
    have hcount : (e.tRem - 1).toNat = e.tRem.toNat - 1 := by bv_omega
    rw [Engine.machineStep_count p _ adv hs ht hp hf]
    cases hst : e.state with
    | idle => exact absurd hst hs
    | sendingHigh | sendingLow | executing =>
      simp only [Engine.ticksLeft, Engine.nibbleLeft, hst, hp, hcount]
      omega
  | true =>
    have ⟨_, hrem⟩ := Engine.fire_iff.1 hf
    cases hst : e.state with
    | idle => exact absurd hst hs
    | sendingHigh =>
      rw [Engine.machineStep_fire_high p _ adv hst hp hf, Engine.ticksLeft_high p hst, Engine.nibbleLeft_timer p hp,
        Engine.ticksLeft_high p (by simpa using hst), Engine.nibbleLeft_startPulse hpulse]
      simp only [Engine.startPulse_active, Engine.drive_active]
      omega
    | sendingLow =>
      rw [Engine.machineStep_fire_low p _ adv hst hp hf, Engine.ticksLeft_low p hst, Engine.nibbleLeft_timer p hp,
        Engine.ticksLeft_low p (by simpa using hst), Engine.nibbleLeft_startPulse hpulse]
      simp only [Engine.startPulse_active, Engine.drive_active]
      omega
    | executing => exact absurd ((e.wantAdvance_executing adv hst).symm.trans hw) (by simp [hf])

/-- The machine's part of a tick while a nibble is pulsed. -/
theorem Engine.ticksLeft_machineStep_pulsing {e : Engine} (hmin : 1 ≤ p.minTicks.toNat) (adv : Bool)
    (hs : e.state = .sendingHigh ∨ e.state = .sendingLow) (ht : e.tArmed = false) (hp : e.pPhase ≠ .idle) :
    (e.machineStep p (fieldsOf e.active) adv).ticksLeft p + 1 = e.ticksLeft p := by
  cases hd : e.pulseDone with
  | false =>
    have hstep := Engine.nibbleLeft_pulseStep hpulse hp hd
    rw [Engine.machineStep_pulse p _ adv hs ht hd]
    obtain hst | hst := hs
    · rw [Engine.ticksLeft_high p hst, Engine.ticksLeft_high p ((e.pulseStep_state p).trans hst), e.pulseStep_active]
      omega
    · rw [Engine.ticksLeft_low p hst, Engine.ticksLeft_low p ((e.pulseStep_state p).trans hst), e.pulseStep_active]
      omega
  | true =>
    obtain ⟨d, hload⟩ := (fieldsOf e.active).exists_timerLoad_eq_succ
    obtain hst | hst := hs
    · rw [Engine.machineStep_done_high p _ adv hst ht hd, Engine.ticksLeft_high p hst, Engine.nibbleLeft_done p hd]
      simp only [Engine.ticksLeft, Engine.nibbleLeft, Engine.arm]
      omega
    · rw [Engine.machineStep_done_low p _ adv hst ht hd, Engine.ticksLeft_low p hst, Engine.nibbleLeft_done p hd]
      simp only [Engine.ticksLeft, Engine.arm]
      omega

end

/-- The word `w` is in flight, and its advance operation is in the tick after the next `k` (R147). -/
structure Engine.Runs (p : Params) (e : Engine) (w : Word) (k : Nat) : Prop where
  inv    : e.Inv
  busy   : e.state ≠ .idle
  active : e.active = w
  left   : e.ticksLeft p = k + 1

/-- In the last tick the Executing phase expires: a nibble has at least the execution delay after it (R136, R137). -/
theorem Engine.Runs.expires {p : Params} {e : Engine} {w : Word} (h : e.Runs p w 0) :
    e.state = .executing ∧ e.fire = true := by
  obtain ⟨⟨-, -, -, -, hexec, -⟩, hs, -, hleft⟩ := h
  obtain ⟨d, hload⟩ := (fieldsOf e.active).exists_timerLoad_eq_succ
  have hpos := e.nibbleLeft_pos p
  cases hst : e.state with
  | idle => exact absurd hst hs
  | sendingHigh => rw [Engine.ticksLeft_high p hst] at hleft; omega
  | sendingLow => rw [Engine.ticksLeft_low p hst] at hleft; omega
  | executing =>
    rw [Engine.ticksLeft_executing p hst] at hleft
    exact ⟨rfl, Engine.fire_iff.2 ⟨hexec hst, by omega⟩⟩

/-- Before the last tick no advance operation runs (R130, R137). -/
theorem Engine.Runs.no_advance {p : Params} {e : Engine} {w : Word} {k : Nat} (h : e.Runs p w (k + 1)) (adv : Bool) :
    e.wantAdvance adv = false := by
  cases hst : e.state with
  | idle => exact absurd hst h.busy
  | sendingHigh => exact e.wantAdvance_sending adv (.inl hst)
  | sendingLow => exact e.wantAdvance_sending adv (.inr hst)
  | executing =>
    have hleft := (Engine.ticksLeft_executing p hst).symm.trans h.left
    have hrem : 1 < e.tRem.toNat := by omega
    rw [e.wantAdvance_executing adv hst]
    simp [Engine.fire, hrem]

section
variable {p : Params} (hpulse : 1 ≤ p.pulseTicks) (hmin : 1 ≤ p.minTicks.toNat)
include hpulse hmin

/-- Each tick before the last is a tick less to the advance operation, whatever the inputs are, and takes no word. -/
theorem Engine.Runs.tick {e : Engine} {w : Word} {k : Nat} {inp : In} (h : e.Runs p w (k + 1)) (hrst : inp.rst = false) :
    (e.tick p inp).Runs p w k ∧ e.poppedNow inp = [] := by
  have hw := h.no_advance inp.advance
  have hr := Engine.run_of_busy h.inv h.busy
  have hstep : (e.machineStep p (fieldsOf e.active) inp.advance).ticksLeft p + 1 = e.ticksLeft p := by
    obtain ⟨-, hsit⟩ := Engine.inv_iff_situation.1 h.inv
    cases hsit with
    | resting hs _ _ _ _ => exact absurd hs h.busy
    | directPulse _ hs _ _ _ => exact absurd hs h.busy
    | timing _ hs ht hp _ => exact Engine.ticksLeft_machineStep_timing hpulse inp.advance hs ht hp hw
    | pulsing _ hs ht _ hp => exact Engine.ticksLeft_machineStep_pulsing hpulse hmin inp.advance hs ht hp
  refine ⟨⟨Engine.tickWord_inv p _ inp h.inv, mt (Engine.tickWord_idle_iff hrst hw).1 h.busy, ?_, ?_⟩, ?_⟩
  · rw [Engine.tick, Engine.tickWord_active hrst, hw]
    exact h.active
  · rw [Engine.tick, Engine.tickWord_runMode hrst hr, Engine.pushStep_eq]
    exact Nat.succ.inj (hstep.trans h.left)
  · rw [e.poppedNow_eq hrst, hw]
    rfl

/-- While fewer ticks have passed than the word takes, it is in flight and no other is taken (R147). -/
theorem Engine.Runs.after {e : Engine} {w : Word} {k : Nat} {ins : List In} (h : e.Runs p w (k + ins.length))
    (hins : noReset ins) : (e.after p ins).Runs p w k ∧ e.popped p ins = [] := by
  induction ins generalizing e with
  | nil => exact ⟨h, rfl⟩
  | cons inp rest ih =>
    obtain ⟨hrst, hrest⟩ := List.forall_mem_cons.1 hins
    obtain ⟨hnext, hpop⟩ := h.tick hpulse hmin hrst
    obtain ⟨hafter, hpops⟩ := ih hnext hrest
    refine ⟨hafter, ?_⟩
    rw [Engine.popped, hpop, hpops]
    rfl

end

/-- A word that has just been taken has the whole of its time before it (R141). -/
theorem Engine.ticksLeft_start {e : Engine} {p : Params} (hs : e.state = .sendingHigh) (hp : e.pPhase = .idle)
    (hrem : e.tRem = p.minTicks) (hmin : 1 ≤ p.minTicks.toNat) : e.ticksLeft p = wordTicks p e.active := by
  rw [Engine.ticksLeft_high p hs, Engine.nibbleLeft_timer p hp, hrem, wordTicks]
  omega

/-- Settles O43: each tick short of reset is one of the word's time. -/
theorem wordRunsToCompletion : Obligations.WordRunsToCompletion := by
  intro p e ins hpulse hmin hinv hs ht hrem hins
  obtain ⟨-, hbusy, hp⟩ := Engine.timing_of_armed hinv ht
  have hruns (k : Nat) (hlen : wordTicks p e.active = k + ins.length + 1) :
      (e.after p ins).Runs p e.active k ∧ e.popped p ins = [] :=
    Engine.Runs.after hpulse hmin ⟨hinv, hbusy, rfl, (Engine.ticksLeft_start hs hp hrem hmin).trans hlen⟩ hins
  refine ⟨fun hlen => ?_, fun hlen => ?_⟩
  · obtain ⟨hafter, hpops⟩ := hruns (wordTicks p e.active - ins.length - 1) (by omega)
    exact ⟨hafter.busy, hafter.active, hpops⟩
  · obtain ⟨hafter, -⟩ := hruns 0 (by omega)
    exact hafter.expires

end Sys2Proof.Machine

namespace Sys2Proof.Machine

/-! ## The schedule of one word at the reference parameters -/

/-- Runs of the engine join. -/
theorem Engine.after_append (p : Params) (e : Engine) (as bs : List In) :
    e.after p (as ++ bs) = (e.after p as).after p bs := by
  induction as generalizing e with
  | nil => rfl
  | cons inp rest ih => exact ih (e.tick p inp)

/-- The latch events of joined runs are those of one and then of the other. -/
theorem Engine.latches_append (p : Params) (t : Nat) (e : Engine) (as bs : List In) :
    e.latches p t (as ++ bs) = e.latches p t as ++ (e.after p as).latches p (t + as.length) bs := by
  induction as generalizing e t with
  | nil => rfl
  | cons inp rest ih =>
    rw [List.cons_append, Engine.latches, ih, Engine.latches, List.append_assoc, List.length_cons, Engine.after,
      Nat.add_assoc, Nat.add_comm 1]

/-- The engine with another queue. -/
def Engine.withQueue (e : Engine) (q : List Word) : Engine := { e with q := q }

/-- From `e`, whatever the queue and the inputs short of reset are, `k` ticks lead to `e'`, the queue aside, with the
latch events `ls t` where they begin at tick `t`. -/
def Engine.Reaches (p : Params) (e : Engine) (k : Nat) (e' : Engine) (ls : Nat → List Latch) : Prop :=
  ∀ (q : List Word) (ins : List In), noReset ins → ins.length = k →
    (∃ q', (e.withQueue q).after p ins = e'.withQueue q') ∧ ∀ t, (e.withQueue q).latches p t ins = ls t

section
variable {p : Params} {e e' e'' : Engine} {ls ls' : Nat → List Latch} {a b : Nat}

theorem Engine.Reaches.refl : e.Reaches p 0 e fun _ => [] := by
  intro q ins _ hlen
  obtain rfl := List.eq_nil_of_length_eq_zero hlen
  exact ⟨⟨q, rfl⟩, fun _ => rfl⟩

theorem Engine.Reaches.trans (h : e.Reaches p a e' ls) (h' : e'.Reaches p b e'' ls') :
    e.Reaches p (a + b) e'' fun t => ls t ++ ls' (t + a) := by
  intro q ins hins hlen
  obtain ⟨as, bs, rfl, rfl, rfl⟩ : ∃ as bs, ins = as ++ bs ∧ as.length = a ∧ bs.length = b :=
    ⟨ins.take a, ins.drop a, (List.take_append_drop a ins).symm, by simp; omega, by simp; omega⟩
  obtain ⟨has, hbs⟩ := List.forall_mem_append.1 hins
  obtain ⟨⟨q', hmid⟩, hls⟩ := h q as has rfl
  obtain ⟨hend, hls'⟩ := h' q' bs hbs rfl
  rw [Engine.after_append, hmid]
  exact ⟨hend, fun t => by rw [Engine.latches_append, hls, hmid, hls']⟩

/-- A tick in run mode whose machine's part does not look at the queue. -/
theorem Engine.Reaches.tick (hr : e.run = true)
    (hstep : ∀ q adv, (e.withQueue q).machineStep p (fieldsOf e.active) adv = e'.withQueue q)
    (hlatch : ∀ t, latchOf (t + 1) e e' = ls t) : e.Reaches p 1 e' ls := by
  intro q ins hins hlen
  obtain ⟨inp, rfl⟩ := List.length_eq_one_iff.1 hlen
  have htick : (e.withQueue q).tick p inp
      = (e.withQueue q).pushStep (e'.withQueue q) inp := by
    rw [← hstep q inp.advance]
    exact Engine.tickWord_runMode (hins inp List.mem_cons_self) hr
  rw [Engine.pushStep_eq] at htick
  refine ⟨⟨_, htick⟩, fun t => ?_⟩
  rw [Engine.latches, htick]
  exact (List.append_nil _).trans (hlatch t)

/-- What is reached from an engine with its own queue. -/
theorem Engine.Reaches.after (h : e.Reaches p a e' ls) {ins : List In} (hins : noReset ins) (hlen : ins.length = a) :
    ∃ q, e.after p ins = e'.withQueue q := (h e.q ins hins hlen).1

theorem Engine.Reaches.latches (h : e.Reaches p a e' ls) {ins : List In} (hins : noReset ins) (hlen : ins.length = a)
    (t : Nat) : e.latches p t ins = ls t := (h e.q ins hins hlen).2 t

/-- Short of its expiry the timer alone counts, and lets no EN fall (R128, R138). -/
theorem Engine.reaches_count {r : Nat} (hr : e.run = true) (hs : e.state ≠ .idle) (ht : e.tArmed = true)
    (hp : e.pPhase = .idle) (hpos : 1 ≤ r) (hrem : e.tRem.toNat = a + r) :
    e.Reaches p a { e with tRem := BitVec.ofNat 16 r } fun _ => [] := by
  induction a generalizing e with
  | zero =>
    have hself : BitVec.ofNat 16 r = e.tRem := by rw [← Nat.zero_add r, ← hrem, BitVec.ofNat_toNat, BitVec.setWidth_eq]
    rw [hself]
    exact .refl
  | succ a ih =>
    have hbig : 1 < e.tRem.toNat := by omega
    have hf : e.fire = false := by simp [Engine.fire, hbig]
    have hcount : (e.tRem - 1).toNat = a + r := by bv_omega
    have hfirst : e.Reaches p 1 { e with tRem := e.tRem - 1 } fun _ => [] :=
      .tick hr (fun q adv => Engine.machineStep_count (s := e.withQueue q) p _ adv hs ht hp hf)
        fun t => latchOf_same _ rfl
    rw [Nat.add_comm a 1]
    exact hfirst.trans (ih (e := { e with tRem := e.tRem - 1 }) hr hs ht hp hcount)

end

/-- A nibble's three rows of R140: the levels driven, EN raised, EN fallen with its latch event. The premises `hfire`
and `hdone` say what the machine does at the expiry and at the end of the pulse in the phase at hand: R133 and
R134, or R135 and R136. -/
theorem Engine.reaches_nibble {e : Engine} {nib : Nibble} {next : Phase} {load : Delay} (hr : e.run = true)
    (hen : e.EN = false) (hs : e.state = .sendingHigh ∨ e.state = .sendingLow)
    (hfire : ∀ q adv, (e.withQueue q).machineStep Params.ref (fieldsOf e.active) adv
      = (e.driven (fieldsOf e.active).isData nib).withQueue q)
    (hdone : ∀ (n : Engine) adv, n.state = e.state → n.tArmed = false → n.pulseDone = true →
      n.machineStep Params.ref (fieldsOf e.active) adv
        = Engine.arm { n with EN := false, pPhase := .idle, pRem := 0, state := next } load) :
    let rs := (fieldsOf e.active).isData
    e.Reaches Params.ref 1 (e.driven rs nib) (fun _ => [])
      ∧ e.Reaches Params.ref 2 ((e.driven rs nib).raiseEnable Params.ref) (fun _ => [])
      ∧ e.Reaches Params.ref 3 (e.latched rs nib next load) fun t => [⟨t + 3, rs, nib⟩] := by
  intro rs
  have hdriven : e.Reaches Params.ref 1 (e.driven rs nib) fun _ => [] := .tick hr hfire fun t => latchOf_off _ _ hen
  have hraised : (e.driven rs nib).Reaches Params.ref 1 ((e.driven rs nib).raiseEnable Params.ref) fun _ => [] :=
    .tick hr (fun q adv => Engine.machineStep_pulse _ _ adv hs rfl rfl) fun t => latchOf_on _ _ rfl
  have hlatched : ((e.driven rs nib).raiseEnable Params.ref).Reaches Params.ref 1 (e.latched rs nib next load)
      fun t => [⟨t + 1, rs, nib⟩] :=
    .tick hr (fun q adv => hdone _ adv rfl rfl rfl) fun t => rfl
  exact ⟨hdriven, hdriven.trans hraised, (hdriven.trans hraised).trans hlatched⟩

/-- The rows of the high nibble (R140). -/
theorem Engine.reaches_high {e : Engine} (hr : e.run = true) (hen : e.EN = false) (hs : e.state = .sendingHigh)
    (hp : e.pPhase = .idle) (hf : e.fire = true) :
    let f := fieldsOf e.active
    e.Reaches Params.ref 1 (e.driven f.isData f.hi) (fun _ => [])
      ∧ e.Reaches Params.ref 2 ((e.driven f.isData f.hi).raiseEnable Params.ref) (fun _ => [])
      ∧ e.Reaches Params.ref 3 (e.latched f.isData f.hi .sendingLow 1) fun t => [⟨t + 3, f.isData, f.hi⟩] :=
  Engine.reaches_nibble hr hen (.inl hs)
    (fun q adv => Engine.machineStep_fire_high (s := e.withQueue q) _ _ adv hs hp hf)
    fun _ adv hn ht hd => Engine.machineStep_done_high _ _ adv (hn.trans hs) ht hd

/-- The rows of the low nibble (R140). -/
theorem Engine.reaches_low {e : Engine} (hr : e.run = true) (hen : e.EN = false) (hs : e.state = .sendingLow)
    (hp : e.pPhase = .idle) (hf : e.fire = true) :
    let f := fieldsOf e.active
    e.Reaches Params.ref 1 (e.driven f.isData f.lo) (fun _ => [])
      ∧ e.Reaches Params.ref 2 ((e.driven f.isData f.lo).raiseEnable Params.ref) (fun _ => [])
      ∧ e.Reaches Params.ref 3 (e.latched f.isData f.lo .executing f.timerLoad)
        fun t => [⟨t + 3, f.isData, f.lo⟩] :=
  Engine.reaches_nibble hr hen (.inr hs)
    (fun q adv => Engine.machineStep_fire_low (s := e.withQueue q) _ _ adv hs hp hf)
    fun _ adv hn ht hd => Engine.machineStep_done_low _ _ adv (hn.trans hs) ht hd

/-- The expiry in Executing is the advance operation's tick, with the word then at the head of the queue (R137). -/
theorem Engine.tick_advances {e : Engine} (p : Params) {inp : In} (hr : e.run = true) (hs : e.state = .executing)
    (hp : e.pPhase = .idle) (hf : e.fire = true) (hrst : inp.rst = false) :
    ∃ q, e.tick p inp
      = (Engine.advanceOp { e with state := .idle, tArmed := false, tRem := 0 } p).withQueue q := by
  rw [Engine.tick, Engine.tickWord_runMode hrst hr, Engine.machineStep_fire_executing p _ _ hs hp hf,
    Engine.pushStep_eq]
  exact ⟨_, rfl⟩

/-- The rows of the execution delay, with `r` ticks of it left (R140). -/
theorem Engine.reaches_executing {e : Engine} (hr : e.run = true) (hen : e.EN = false) (hs : e.state = .sendingHigh)
    (hp : e.pPhase = .idle) (hf : e.fire = true) {j r : Nat} (hpos : 1 ≤ r)
    (hload : (fieldsOf e.active).timerLoad.toNat = j + r) :
    let f := fieldsOf e.active
    e.Reaches Params.ref (6 + j) (e.latched f.isData f.lo .executing (BitVec.ofNat 16 r))
      fun t => [⟨t + 3, f.isData, f.hi⟩, ⟨t + 6, f.isData, f.lo⟩] := by
  intro f
  obtain ⟨-, -, high⟩ := Engine.reaches_high hr hen hs hp hf
  obtain ⟨-, -, low⟩ := Engine.reaches_low (e := e.latched f.isData f.hi .sendingLow 1) hr rfl rfl rfl rfl
  have count := Engine.reaches_count (p := Params.ref) (e := e.latched f.isData f.lo .executing f.timerLoad) hr
    Phase.noConfusion rfl rfl hpos hload
  exact (high.trans low).trans count

/-- The last row: the advance operation takes the word then at the head of the queue, and the latch events are the
two nibbles' (R137, R140). -/
theorem Engine.after_word {e : Engine} (hr : e.run = true) (hen : e.EN = false) (hs : e.state = .sendingHigh)
    (hp : e.pPhase = .idle) (hf : e.fire = true) {before : List In} {last : In}
    (hins : noReset (before ++ [last])) (hlen : before.length + 1 = 6 + (fieldsOf e.active).timerLoad.toNat) :
    let f := fieldsOf e.active
    (∃ q, e.after Params.ref (before ++ [last])
        = (((e.wordDone f).withQueue (e.after Params.ref before).q).advanceOp Params.ref).withQueue q)
      ∧ ∀ t, e.latches Params.ref t (before ++ [last])
        = [⟨t + 3, f.isData, f.hi⟩, ⟨t + 6, f.isData, f.lo⟩] := by
  intro f
  obtain ⟨hbefore, hlast⟩ := List.forall_mem_append.1 hins
  obtain ⟨n, hload⟩ := f.exists_timerLoad_eq_succ
  have hbeforeLen : before.length = 6 + n := Nat.succ.inj (hlen.trans (congrArg (6 + ·) hload))
  have executing := Engine.reaches_executing hr hen hs hp hf Nat.le.refl hload
  obtain ⟨q, hrow⟩ := executing.after hbefore hbeforeLen
  constructor
  · rw [Engine.after_append, hrow]
    exact Engine.tick_advances (e := (e.latched f.isData f.lo .executing 1).withQueue q) Params.ref hr rfl rfl rfl
      (hlast last List.mem_cons_self)
  · intro t
    rw [Engine.latches_append, executing.latches hbefore hbeforeLen, hrow, Engine.latches, latchOf_off _ _ rfl]
    rfl

/-- Settles O44: each row is what the ticks before it lead to, and the last is the advance operation's tick. -/
theorem wordKeepsTheReferenceSchedule : Obligations.WordKeepsTheReferenceSchedule := by
  intro e ins hinv hen hs ht hrem hins f r
  obtain ⟨hr, -, hp⟩ := Engine.timing_of_armed hinv ht
  have hf : e.fire = true := Engine.fire_iff.2 ⟨ht, by rw [hrem]; decide⟩
  obtain ⟨row1, row2, row3⟩ := Engine.reaches_high hr hen hs hp hf
  obtain ⟨low1, low2, -⟩ :=
    Engine.reaches_low (e := e.latched f.isData f.hi .sendingLow 1) hr rfl rfl rfl rfl
  refine ⟨fun hlen => ?_, fun hlen => ?_, fun hlen => ?_, fun hlen => ?_, fun hlen => ?_, fun hge hlt => ?_,
    fun hlen => ?_⟩
  · obtain ⟨q, hrow⟩ := row1.after hins hlen
    rw [show r = _ from hrow]
    exact ⟨hs, rfl, rfl, rfl, rfl, hen⟩
  · obtain ⟨q, hrow⟩ := row2.after hins hlen
    rw [show r = _ from hrow]
    exact ⟨hs, rfl, rfl, rfl, rfl, rfl⟩
  · obtain ⟨q, hrow⟩ := row3.after hins hlen
    rw [show r = _ from hrow]
    exact ⟨rfl, rfl, rfl, rfl, rfl, rfl, rfl⟩
  · obtain ⟨q, hrow⟩ := (row3.trans low1).after hins hlen
    rw [show r = _ from hrow]
    exact ⟨rfl, rfl, rfl, rfl, rfl, rfl⟩
  · obtain ⟨q, hrow⟩ := (row3.trans low2).after hins hlen
    rw [show r = _ from hrow]
    exact ⟨rfl, rfl, rfl, rfl, rfl, rfl⟩
  · obtain ⟨j, hlen⟩ : ∃ j, ins.length = 6 + j := ⟨ins.length - 6, by omega⟩
    obtain ⟨k, hpos, hload⟩ : ∃ k, 1 ≤ k ∧ f.timerLoad.toNat = j + k := ⟨f.timerLoad.toNat - j, by omega, by omega⟩
    have executing := Engine.reaches_executing hr hen hs hp hf hpos hload
    obtain ⟨q, hrow⟩ := executing.after hins hlen
    have hleft : (BitVec.ofNat 16 k).toNat = f.timerLoad.toNat - (ins.length - 6) := by
      rw [BitVec.toNat_ofNat, Nat.mod_eq_of_lt (by omega)]
      omega
    rw [show r = _ from hrow]
    exact ⟨rfl, rfl, hleft, rfl, rfl, rfl, rfl, executing.latches hins hlen⟩
  · obtain rfl | ⟨before, last, rfl⟩ := List.eq_nil_or_concat' ins
    · rw [List.length_nil] at hlen; omega
    rw [List.length_append] at hlen
    obtain ⟨⟨q, hrow⟩, hlatches⟩ := Engine.after_word hr hen hs hp hf hins hlen
    rw [List.dropLast_concat, show r = _ from hrow]
    cases (e.after Params.ref before).q with
    | nil =>
      rw [Engine.advanceOp_nil rfl]
      exact ⟨⟨rfl, rfl⟩, rfl, rfl, rfl, rfl, hlatches⟩
    | cons w rest =>
      rw [Engine.advanceOp_cons rfl]
      exact ⟨⟨rfl, rfl, rfl, rfl⟩, rfl, rfl, rfl, rfl, hlatches⟩

end Sys2Proof.Machine

namespace Sys2Proof.Machine

/-! ## The delays of the agents' words -/

/-- R10's room in the delay field: a delay no longer than the longest one, 1530, does not wrap with the margin added. -/
theorem toNat_delay_add_margin {p : Params} (h : p.wf) {d : Delay} (hd : d.toNat ≤ 1530) :
    (d + p.safetyMargin).toNat = d.toNat + p.safetyMargin.toNat := by
  obtain ⟨-, -, -, -, hroom, -⟩ := h
  exact BitVec.toNat_add_of_lt (by omega)

/-- Settles O47: each word is packed of the fields stated, and each sum has R10's room. -/
theorem agentWordsCarryDelayAndMargin : Obligations.AgentWordsCarryDelayAndMargin := by
  intro p hwf hon hcursor hdata a c
  have hcursorSet : fieldsOf (cursorSetWord p a)
      = ⟨false, p.cursorSetDelay + p.safetyMargin, 0x80#8 ||| a.setWidth 8⟩ := by
    rw [cursorSetWord, fieldsOf_pack, cursorOpcode]
  exact ⟨fieldsOf_pack .., fieldsOf_pack .., fieldsOf_pack .., fieldsOf_pack .., fieldsOf_pack .., hcursorSet,
    fieldsOf_pack .., toNat_delay_add_margin hwf (d := 39) (by decide),
    toNat_delay_add_margin hwf (d := 1530) (by decide), toNat_delay_add_margin hwf hon,
    toNat_delay_add_margin hwf hcursor, toNat_delay_add_margin hwf hdata⟩

end Sys2Proof.Machine

namespace Sys2Proof.Machine

/-! # The bootstrap (44_bootstrap) -/

/-! ## Runs in which the engine and the host's program move -/

/-- `k` steps take the machine's engine to `e`, with these latch events, and leave the host these lines. -/
def State.Proceeds (s : State) (k : Nat) (e : Engine) (lines : List Line) (ls : List Latch) : Prop :=
  Host.Core.run core k s = .next ((s.passed k e ls).withProgram lines)

theorem State.proceeds_zero {s : State} {lines : List Line} (hp : s.prod.program = lines) :
    s.Proceeds 0 s.eng lines [] := by
  subst hp
  simp [State.Proceeds, run_zero, State.passed, State.withProgram]

/-- A step that is a tick before the program left is a run of this kind. -/
theorem State.proceeds_of_step {s : State} {lines : List Line} {inp : In} {e : Engine} {ls : List Latch}
    (h : step s = .next ((s.withProgram lines).clock inp)) (he : s.eng.tick s.cfg inp = e)
    (hls : latchOf (s.now + 1) s.eng e = ls) : s.Proceeds 1 e lines ls := by
  subst he hls
  exact run_succ h 0

/-- Runs of this kind join. -/
theorem State.Proceeds.trans {s : State} {a b : Nat} {e e' : Engine} {lines lines' : List Line} {ls ls' : List Latch}
    (h : s.Proceeds a e lines ls) (h' : ((s.passed a e ls).withProgram lines).Proceeds b e' lines' ls') :
    s.Proceeds (a + b) e' lines' (ls ++ ls') := by
  unfold State.Proceeds at *
  rw [run_add h, h']
  simp [State.passed, State.withProgram, Nat.add_assoc]

/-- The same run with its number of ticks and its latch events written otherwise. -/
theorem State.Proceeds.congr {s : State} {a b : Nat} {e : Engine} {lines : List Line} {ls ls' : List Latch}
    (h : s.Proceeds a e lines ls) (hk : a = b) (hls : ls = ls') : s.Proceeds b e lines ls' := hk ▸ hls ▸ h

/-- A run that goes on without a latch event. -/
theorem State.Proceeds.trans_silent {s : State} {a b : Nat} {e e' : Engine} {lines lines' : List Line}
    {ls : List Latch} (h : s.Proceeds a e lines ls)
    (h' : ((s.passed a e ls).withProgram lines).Proceeds b e' lines' []) : s.Proceeds (a + b) e' lines' ls :=
  (h.trans h').congr rfl (List.append_nil ls)

/-- A host operation other than ADVANCE, in a tick in which its line is done, is the step (R83). -/
theorem step_op_done {s : State} {op : HostWord} {i : Instr} {rest : List Line}
    (hp : s.prod.program = .op op :: rest) (hd : decodeHost op = .ok i) (hi : i ≠ .advance)
    (hdone : lineDone s.eng op = true) : step s = exec i (s.withProgram rest) := by
  have hself : s.settled = s := State.settled_eq_self (by rw [hp]; rfl)
  rw [step_op (hself.symm ▸ hp) hd, hself, State.issued_self (.inl hi), heldProgram, if_pos hdone]

/-! ## WAIT -/

/-- A `WAIT 0` takes no tick (R83). -/
theorem step_wait_zero {s : State} {rest : List Line} (hp : s.prod.program = .wait 0 :: rest) :
    step s = step (s.withProgram rest) := by
  simp only [step, State.settled, hp, State.withProgram, settleLines]

/-- What follows a `WAIT 0` runs as without it (R83). -/
theorem State.Proceeds.skip_wait {s : State} {k : Nat} {e : Engine} {rest lines : List Line} {ls : List Latch}
    (hp : s.prod.program = .wait 0 :: rest) (h : (s.withProgram rest).Proceeds (k + 1) e lines ls) :
    s.Proceeds (k + 1) e lines ls := by
  have hstep : core.step s = core.step (s.withProgram rest) := step_wait_zero hp
  unfold State.Proceeds at *
  simp only [Host.Core.run, hstep]
  exact h

/-- A tick of a WAIT with nothing in flight is a tick without a request (R83). -/
theorem State.proceeds_wait_tick {s : State} {n : Nat} {rest : List Line} {e : Engine} {ls : List Latch}
    (hp : s.prod.program = .wait (n + 1) :: rest) (hs : s.eng.state = .idle)
    (he : s.eng.tick s.cfg In.quiet = e) (hls : latchOf (s.now + 1) s.eng e = ls) :
    s.Proceeds 1 e (.wait n :: rest) ls := by
  have hself : s.settled = s := State.settled_eq_self (by rw [hp]; rfl)
  refine State.proceeds_of_step ?_ he hls
  rw [step_wait (hself.symm ▸ hp), hself]
  exact State.quietStep_none (by simp [Engine.inFlight, hs])

/-- The engine at rest, in either mode: Idle, no pulse, EN idle. -/
structure Engine.Resting (e : Engine) : Prop where
  inv    : e.Inv
  state  : e.state = .idle
  pulse  : e.pPhase = .idle
  enable : e.EN = false

/-- The engine at rest in direct mode. -/
structure Engine.DirectResting (e : Engine) : Prop extends e.Resting where
  mode : e.run = false

/-- With the direct port open and EN idle the engine is at rest (R41 a). -/
theorem Engine.directResting_of_open {e : Engine} (h : e.Inv) (hd : e.dirReady = true) (hen : e.EN = false) :
    e.DirectResting := by
  obtain ⟨hr, hp⟩ := Engine.dirReady_iff.1 hd
  have ⟨_, hdirect, _⟩ := h
  exact ⟨⟨h, (hdirect hr).1, hp, hen⟩, hr⟩

/-- In direct mode an engine at rest has its direct port open (R38). -/
theorem Engine.DirectResting.dirReady {e : Engine} (h : e.DirectResting) : e.dirReady = true :=
  Engine.dirReady_iff.2 ⟨h.mode, h.pulse⟩

/-- Reset leaves the engine at rest in direct mode (R39). -/
theorem Engine.resetState_directResting (e : Engine) : e.resetState.DirectResting :=
  ⟨⟨Engine.inv_iff_situation.2 ⟨Nat.zero_le _, e.resetState_situation⟩, rfl, rfl, rfl⟩, rfl⟩

/-- The engine with RS at 0 and this nibble on the data lines (R99). -/
def Engine.showing (e : Engine) (d : Nibble) : Engine := { e with RS := false, D := d }

theorem Engine.DirectResting.showing {e : Engine} (h : e.DirectResting) (d : Nibble) :
    (e.showing d).DirectResting := ⟨⟨h.inv, h.state, h.pulse, h.enable⟩, h.mode⟩

/-- A WAIT leaves an engine at rest as it is (R83, R152). -/
theorem State.proceeds_wait {s : State} {n m : Nat} {rest : List Line} (h : s.eng.Resting)
    (hp : s.prod.program = .wait (m + n) :: rest) : s.Proceeds n s.eng (.wait m :: rest) [] := by
  induction n generalizing s with
  | zero => exact State.proceeds_zero hp
  | succ n ih =>
    have htick := Engine.tick_noRequest_resting (inp := In.quiet) s.cfg h.inv h.state h.pulse rfl
    have hfirst : s.Proceeds 1 s.eng (.wait (m + n) :: rest) [] :=
      State.proceeds_wait_tick hp h.state htick (latchOf_off _ _ h.enable)
    exact (hfirst.trans (ih h rfl)).congr (Nat.add_comm 1 n) rfl

/-- A WAIT at rest, and then a run of what follows it (R83). -/
theorem State.proceeds_after_wait {s : State} {m k : Nat} {e : Engine} {rest lines : List Line} {ls : List Latch}
    (h : s.eng.Resting) (hp : s.prod.program = .wait m :: rest) (hk : 0 < k)
    (hrest : ((s.passed m s.eng []).withProgram rest).Proceeds k e lines ls) : s.Proceeds (m + k) e lines ls := by
  obtain ⟨k, rfl⟩ := Nat.exists_eq_add_one.2 hk
  have hwait : s.Proceeds m s.eng (.wait 0 :: rest) [] := State.proceeds_wait h (by rw [hp, Nat.zero_add])
  exact hwait.trans (State.Proceeds.skip_wait rfl hrest)

/-- A pulse of the direct port leaves the machine Idle (R41 a). -/
theorem Engine.Pulsing.state {e : Engine} {k : Nat} (h : e.Pulsing k) : e.state = .idle := by
  have ⟨_, hdirect, _⟩ := h.inv
  exact (hdirect h.mode).1

/-- A WAIT outlasts the rest of a pulse of the direct port: EN falls under it (R98, R174). -/
theorem State.proceeds_wait_pulse {s : State} {k m : Nat} {rest : List Line} (h : s.eng.Pulsing k)
    (hp : s.prod.program = .wait (m + (k + 1)) :: rest) :
    s.Proceeds (k + 1) s.eng.released (.wait m :: rest) [⟨s.now + (k + 1), s.eng.RS, s.eng.D⟩] := by
  induction k generalizing s with
  | zero =>
    obtain ⟨-, -, hlatch⟩ := h.tick_releases (p := s.cfg) (inp := In.quiet) rfl (s.now + 1)
    have htick : s.eng.tick s.cfg In.quiet = s.eng.released := by
      rw [h.tick_eq rfl, h.pulseStep_zero]
      rfl
    exact State.proceeds_wait_tick hp h.state htick (htick ▸ hlatch)
  | succ k ih =>
    have hnext := h.tick_pulsing (p := s.cfg) (inp := In.quiet) rfl
    have htick : s.eng.tick s.cfg In.quiet = { s.eng with pRem := k + 1 } := by
      rw [h.tick_eq rfl, h.pulseStep_succ]
      rfl
    rw [htick] at hnext
    have hfirst : s.Proceeds 1 { s.eng with pRem := k + 1 } (.wait (m + (k + 1)) :: rest) [] :=
      State.proceeds_wait_tick hp h.state htick (latchOf_on _ _ hnext.enable)
    have hrest := hfirst.trans (ih (s := (s.passed 1 _ []).withProgram _) hnext rfl)
    exact hrest.congr (Nat.add_comm 1 (k + 1)) (by simp [Nat.add_comm, Nat.add_left_comm])

/-! ## SEND_NIBBLE before further lines -/

/-- The data lines after the first `j` of the four writes of a nibble (R99). -/
def writtenLines (d n : Nibble) : Nat → Nibble
  | 0     => d
  | j + 1 => setDataLine (writtenLines d n j) j (n.getLsbD j)

/-- The lines left after the first `j` of the four writes begin with the next write (R99). -/
theorem drop_sendNibbleRest (n : Nibble) {j : Nat} (hj : j < 4) :
    (sendNibbleRest n).drop j
      = .op (setLevelLine (BitVec.ofNat 3 j) (n.getLsbD j)) :: (sendNibbleRest n).drop (j + 1) := by
  interval_cases j <;> rfl

section
variable {s : State} {n : Nibble} {rest : List Line} (h : s.eng.DirectResting)
  (hp : s.prod.program = .op (.nib (encodeNibble n)) :: rest)
include h hp

/-- Up to its PULSE a nibble-only transmission writes RS and then the data lines, one in each tick (R99). -/
theorem State.run_nibble_writes {j : Nat} (hj : j ≤ 4) :
    Host.Core.run core (j + 1) s
      = .next (s.sendingNibble (j + 1) (writtenLines s.eng.D n j) ((sendNibbleRest n).drop j ++ rest)) := by
  have hopen := h.dirReady
  induction j with
  | zero =>
    rw [run_succ (step_nibble hp), run_zero, State.startNibble_open (s := s.withProgram rest) n h.inv hopen]
    rfl
  | succ j ih =>
    have hline := State.sendingNibble_setLevel h.inv hopen (j + 1) (writtenLines s.eng.D n j) (n.getLsbD j)
      ((sendNibbleRest n).drop (j + 1) ++ rest) (g := BitVec.ofNat 3 j) (by simp; omega)
    have hnum : (BitVec.ofNat 3 j).toNat = j := by simp; omega
    rw [run_add (ih (by omega)) 1, drop_sendNibbleRest n (by omega)]
    rw [hnum] at hline
    exact run_succ hline 0

/-- Up to its PULSE a nibble-only transmission leaves EN idle (R99). -/
theorem State.proceeds_nibble_writes {j : Nat} (hj : j ≤ 4) :
    s.Proceeds (j + 1) (s.eng.showing (writtenLines s.eng.D n j)) ((sendNibbleRest n).drop j ++ rest) [] := by
  unfold State.Proceeds
  rw [State.run_nibble_writes h hp hj]
  simp [State.passed, State.withProgram, State.sendingNibble, Engine.showing]

/-- In its sixth tick a nibble-only transmission raises EN, with the nibble on the lines (R99). -/
theorem State.proceeds_nibble_rise :
    s.Proceeds 6 ((s.eng.showing n).raiseEnable s.cfg) rest [] := by
  have hwritten : writtenLines s.eng.D n 4 = n := setDataLine_all s.eng.D n
  have hpulse := State.sendingNibble_pulse h.inv h.dirReady 5 n rest
  unfold State.Proceeds
  rw [run_add (State.run_nibble_writes h hp (j := 4) le_rfl) 1, hwritten]
  refine (run_succ hpulse 0).trans ?_
  simp [run_zero, State.passed, State.withProgram, State.sendingNibble, Engine.showing]

end

/-- The WAIT after a nibble, for a wait of `w + 1`, is as long as the nibble's pulse and `w` ticks (R174). -/
theorem waitAfterPulse_eq {p : Params} {w k : Nat} (hk : p.pulseTicks = k + 1) :
    waitAfterPulse p (w + 1) = .wait (w + (k + 1)) := by
  rw [waitAfterPulse, hk]
  congr 1
  omega

/-- A nibble and the WAIT after it: EN falls in tick `6 + PULSE_TICKS`, under the WAIT, and the engine is at rest
again (R99, R174). -/
theorem State.proceeds_nibble {s : State} {n : Nibble} {w : Nat} {rest : List Line} (h : s.eng.DirectResting)
    (hpos : 1 ≤ s.cfg.pulseTicks)
    (hp : s.prod.program = .op (.nib (encodeNibble n)) :: waitAfterPulse s.cfg (w + 1) :: rest) :
    s.Proceeds (6 + s.cfg.pulseTicks) (s.eng.showing n) (.wait w :: rest)
      [⟨s.now + (6 + s.cfg.pulseTicks), false, n⟩] := by
  obtain ⟨k, hk⟩ : ∃ k, s.cfg.pulseTicks = k + 1 := Nat.exists_eq_add_one.2 hpos
  have hopen : (s.eng.showing n).dirReady = true := h.dirReady
  rw [waitAfterPulse_eq hk] at hp
  have hfall := State.proceeds_wait_pulse
    (s := (s.passed 6 ((s.eng.showing n).raiseEnable s.cfg) []).withProgram (.wait (w + (k + 1)) :: rest))
    (Engine.raiseEnable_pulsing (h.showing n).inv hopen hk) rfl
  rw [State.withProgram_eng, State.passed_eng, Engine.released_raiseEnable s.cfg (h.showing n).inv hopen h.enable]
    at hfall
  refine ((State.proceeds_nibble_rise h hp).trans hfall).congr (by rw [hk]) ?_
  rw [hk, ← Nat.add_assoc s.now 6]
  rfl

/-- Settles O56: the first nibble with its WAIT, then the rest of the WAIT and the ticks of the second nibble. -/
theorem directWaitsRunFromFallToRise : Obligations.DirectWaitsRunFromFallToRise := by
  intro s a b w hinv hopen hen hpos hw hp fall
  obtain ⟨m, rfl⟩ : ∃ m, w = m + 1 := Nat.exists_eq_add_one.2 hw
  have hrest := Engine.directResting_of_open hinv hopen hen
  have hrest' := hrest.showing a
  have hfall := State.proceeds_nibble hrest hpos hp
  refine ⟨fun k hk => ?_, ⟨_, hfall.trans (State.proceeds_after_wait hrest'.toResting rfl (by decide)
    (State.proceeds_nibble_rise hrest' rfl)), rfl, rfl, rfl, rfl⟩⟩
  obtain ⟨i, rfl⟩ | ⟨j, rfl⟩ : (∃ i, m = i + k) ∨ ∃ j, k = m + (j + 1) := by
    obtain hlt | hle := Nat.lt_or_ge m k
    · exact .inr (Nat.exists_eq_add_of_lt hlt)
    · exact .inl (Nat.exists_eq_add_of_le' hle)
  · exact ⟨_, hfall.trans (State.proceeds_wait hrest'.toResting rfl), hen, rfl⟩
  · have hj : j ≤ 4 := by omega
    exact ⟨_, hfall.trans (State.proceeds_after_wait hrest'.toResting rfl j.succ_pos
      (State.proceeds_nibble_writes hrest' rfl hj)), hen, rfl⟩

/-! ## The bootstrap's call -/

/-- The bootstrap's call is the tick of a RESET before its other lines (R84, R171). -/
theorem exec_initCall (s : State) :
    exec .initCall s = .next ((s.withProgram (initializeRest s.cfg ++ s.prod.program)).clock In.hardReset) := rfl

/-- The tick of a RESET (R39, R212). -/
theorem Engine.tick_hardReset (e : Engine) (p : Params) : e.tick p In.hardReset = e.resetState :=
  Engine.tickWord_rst rfl

/-- The latch event of a RESET in tick `t`, where EN was asserted. -/
def Engine.resetLatch (e : Engine) (t : Nat) : List Latch := if e.EN then [⟨t, false, 0⟩] else []

/-- A RESET lets an asserted EN fall, with the lines at 0 (R15, R39). -/
theorem latchOf_resetState (t : Nat) (e : Engine) : latchOf t e e.resetState = e.resetLatch t := by
  cases hen : e.EN <;> simp [latchOf, Engine.resetLatch, hen]

/-- Settles O50: the first line of the expansion is a RESET. -/
theorem initializeExpands : Obligations.InitializeExpands := by
  intro s
  refine ⟨_, exec_initCall s, ?_, rfl, rfl, rfl, ?_, rfl⟩
  · rw [State.clock_eng, Engine.tick_hardReset]
    exact s.eng.resetState_isReset
  · rw [State.clock_events, Engine.tick_hardReset]
    exact congrArg (s.events ++ ·) (latchOf_resetState _ s.eng)

/-- The line of the bootstrap's call takes a tick, that of its RESET (R83, R171). -/
theorem State.proceeds_initCall {s : State} (hp : s.prod.program = [.op .initCall]) :
    s.Proceeds 1 s.eng.resetState (initializeRest s.cfg) (s.eng.resetLatch (s.now + 1)) := by
  have hstep := (step_op_done hp rfl Instr.noConfusion rfl).trans (exec_initCall _)
  rw [State.withProgram_prod, List.append_nil] at hstep
  exact State.proceeds_of_step hstep (s.eng.tick_hardReset s.cfg) (latchOf_resetState _ _)

/-! ## The four nibbles -/

/-- After a run that leaves the engine at rest in direct mode before a WAIT and a nibble: the nibble is latched in
tick `j` of the run, and its own WAIT has begun (R99, R174). -/
theorem State.Proceeds.nibble {s : State} {k m w j : Nat} {e : Engine} {n : Nibble} {rest : List Line}
    {ls : List Latch}
    (h : s.Proceeds k e (.wait m :: .op (.nib (encodeNibble n)) :: waitAfterPulse s.cfg w :: rest) ls)
    (he : e.DirectResting) (hpos : 1 ≤ s.cfg.pulseTicks) (hw : 1 ≤ w)
    (hj : j = k + m + (6 + s.cfg.pulseTicks)) :
    s.Proceeds j (e.showing n) (.wait (w - 1) :: rest) (ls ++ [⟨s.now + j, false, n⟩]) := by
  obtain ⟨v, rfl⟩ := Nat.exists_eq_add_one.2 hw
  have hrun := h.trans (State.proceeds_after_wait he.toResting rfl (by omega) (State.proceeds_nibble he hpos rfl))
  refine hrun.congr ?_ ?_
  · rw [hj, Nat.add_assoc]; rfl
  · simp [hj, Nat.add_assoc]

/-- Ticks from the bootstrap's call to the fall of EN after its first nibble (R171, R174). -/
def firstFall (p : Params) : Nat := p.boot.powerOn + 7 + p.pulseTicks
/-- Ticks to the fall after its second nibble. -/
def secondFall (p : Params) : Nat := firstFall p + p.boot.after1 + 5 + p.pulseTicks
/-- Ticks to the fall after its third nibble. -/
def thirdFall (p : Params) : Nat := secondFall p + p.boot.after2 + 5 + p.pulseTicks
/-- Ticks to the fall after its fourth nibble. -/
def fourthFall (p : Params) : Nat := thirdFall p + p.boot.after3 + 5 + p.pulseTicks

/-- The latch events of the four nibbles of a bootstrap called at tick `t` (R173). -/
def bootNibbles (p : Params) (t : Nat) : List Latch :=
  [⟨t + firstFall p, false, 3⟩, ⟨t + secondFall p, false, 3⟩, ⟨t + thirdFall p, false, 3⟩,
   ⟨t + fourthFall p, false, 2⟩]

/-- The lines of the bootstrap after its last WAIT: SETRUN, the five words, ADVANCE, WAITIDLE (R171, R176). -/
def runLines (p : Params) : List Line := (initializeRest p).drop 9

/-- The bootstrap up to the fall of EN after its fourth nibble: the engine is at rest in direct mode, and the last
WAIT has begun (R171, R174). -/
theorem State.proceeds_bootNibbles {s : State} {v : Nat} (hwf : s.cfg.wf) (hp : s.prod.program = [.op .initCall])
    (hv : s.cfg.boot.after4 = v + 1) :
    s.Proceeds (fourthFall s.cfg) (s.eng.resetState.showing 2) (.wait v :: runLines s.cfg)
      (s.eng.resetLatch (s.now + 1) ++ bootNibbles s.cfg s.now) := by
  obtain ⟨-, -, hpulse, -, -, -, h1, h2, h3, -⟩ := hwf
  replace h1 : 1 ≤ s.cfg.boot.after1 := le_trans (by decide) h1
  replace h2 : 1 ≤ s.cfg.boot.after2 := le_trans (by decide) h2
  replace h3 : 1 ≤ s.cfg.boot.after3 := le_trans (by decide) h3
  have hreset := s.eng.resetState_directResting
  have first := (State.proceeds_initCall hp).nibble (j := firstFall s.cfg) hreset hpulse h1
    (by rw [firstFall]; omega)
  have second := first.nibble (j := secondFall s.cfg) (hreset.showing 3) hpulse h2 (by rw [secondFall]; omega)
  have third := second.nibble (j := thirdFall s.cfg) (hreset.showing 3) hpulse h3 (by rw [thirdFall]; omega)
  have fourth := third.nibble (j := fourthFall s.cfg) (hreset.showing 3) hpulse (hv ▸ v.succ_pos)
    (by rw [fourthFall]; omega)
  rw [hv, Nat.add_sub_cancel] at fourth
  exact fourth.congr rfl (by simp [bootNibbles])

/-! ## From the last nibble to run mode -/

/-- A SETRUN line of a host whose direct port is open (R83, R139). -/
theorem State.proceeds_setRun {s : State} {rest : List Line} (h : s.eng.DirectResting)
    (hp : s.prod.program = .op .setRun :: rest) : s.Proceeds 1 { s.eng with run := true } rest [] := by
  have hstep := step_op_done hp rfl Instr.noConfusion h.dirReady
  rw [setRunEntersRunMode (s.withProgram rest) h.inv h.mode h.pulse] at hstep
  exact (run_succ hstep 0).trans (by simp [run_zero, State.passed, State.withProgram])

/-- Settles O57: the four nibbles, then the last WAIT and the tick of SETRUN after it. -/
theorem bootstrapMeetsItsWaits : Obligations.BootstrapMeetsItsWaits := by
  intro s hwf hp p fall1 fall2 fall3 fall4 k hk
  have ⟨_, _, _, _, _, _, _, _, _, hlast⟩ := hwf
  obtain ⟨v, hv⟩ : ∃ v, p.boot.after4 = v + 1 := Nat.exists_eq_add_one.2 (lt_of_lt_of_le (by decide) hlast)
  have hfalls := State.proceeds_bootNibbles hwf hp hv
  have hrest := s.eng.resetState_directResting.showing 2
  have hevents := (List.append_assoc s.events (s.eng.resetLatch (s.now + 1)) (bootNibbles s.cfg s.now)).symm
  obtain hle | rfl := Nat.le_succ_iff.1 (hv ▸ hk)
  · obtain ⟨i, rfl⟩ := Nat.exists_eq_add_of_le' hle
    exact ⟨_, hfalls.trans_silent (State.proceeds_wait hrest.toResting rfl), rfl, hevents⟩
  · exact ⟨_, hfalls.trans_silent (State.proceeds_after_wait hrest.toResting rfl Nat.one_pos
      (State.proceeds_setRun hrest rfl)), rfl, hevents⟩

/-! ## The five words of the bootstrap -/

/-- A PUSH line of a host whose engine is at rest with room in the queue (R83, R111). -/
theorem State.proceeds_push {s : State} {w : Word} {rest : List Line} (h : s.eng.Resting)
    (hroom : s.eng.q.length < 10) (hp : s.prod.program = .op (.push w) :: rest) :
    s.Proceeds 1 (s.eng.withQueue (s.eng.q ++ [w])) rest [] := by
  have hready := Engine.pushReady_iff.2 hroom
  have htick : s.eng.tick s.cfg (In.pushOf w) = s.eng.withQueue (s.eng.q ++ [w]) := by
    rw [Engine.tick_push_room s.cfg w hready,
      Engine.tick_noRequest_resting (inp := In.quiet) s.cfg h.inv h.state h.pulse rfl]
    rfl
  exact State.proceeds_of_step (step_op_done hp rfl Instr.noConfusion hready) htick (latchOf_off _ _ h.enable)

/-- An engine at rest stays so with another queue of at most ten words. -/
theorem Engine.Resting.withQueue {e : Engine} (h : e.Resting) {q : List Word} (hq : q.length ≤ 10) :
    (e.withQueue q).Resting := by
  obtain ⟨⟨-, hinv⟩, hs, hp, hen⟩ := h
  exact ⟨⟨hq, hinv⟩, hs, hp, hen⟩

/-- PUSH lines in a row queue their words in order (R111). -/
theorem State.proceeds_pushes {s : State} {ws : List Word} {rest : List Line} (h : s.eng.Resting)
    (hroom : s.eng.q.length + ws.length ≤ 10) (hp : s.prod.program = ws.map (.op <| .push ·) ++ rest) :
    s.Proceeds ws.length (s.eng.withQueue (s.eng.q ++ ws)) rest [] := by
  induction ws generalizing s with
  | nil =>
    rw [List.append_nil]
    exact State.proceeds_zero hp
  | cons w ws ih =>
    rw [List.length_cons] at hroom
    have hlen : (s.eng.q ++ [w]).length ≤ 10 := by rw [List.length_append, List.length_singleton]; omega
    have hfirst := State.proceeds_push h (by omega) hp
    have hrest := ih (s := (s.passed 1 (s.eng.withQueue (s.eng.q ++ [w])) []).withProgram _) (h.withQueue hlen)
      (by simp [Engine.withQueue]; omega) rfl
    have hboth := (hfirst.trans hrest).congr (Nat.add_comm 1 ws.length) rfl
    simpa [Engine.withQueue] using hboth

/-- Every run keeps the engine's invariant (R41). -/
theorem inv_of_run {s t : State} {k : Nat} (hinv : s.eng.Inv) (h : Host.Core.run core k s = .next t) :
    t.eng.Inv := by
  induction k generalizing s with
  | zero =>
    obtain rfl := Host.Outcome.next.inj h
    exact hinv
  | succ k ih =>
    cases hs : step s with
    | next u => exact ih (stepKeepsTheEngineInvariant s u hinv hs) (run_succ hs k ▸ h)
    | fault r => exact nomatch r
    | refused r =>
      have hc : core.step s = .refused r := hs
      simp [Host.Core.run, hc] at h

/-! ## The drain under WAITIDLE -/

/-- With a word in flight and a host that is at its end or waits for idle, a step is a tick of the word (R83, R150). -/
theorem step_busy {s : State} (hs : s.eng.state ≠ .idle) (hp : s.prod.program = [] ∨ s.prod.program = [.waitIdle]) :
    step s = .next (s.clock In.trigger) := by
  have hrest : s.eng.atRest = false := by simp [Engine.atRest, Engine.isIdle, hs]
  have hself : s.settled = s := State.settled_eq_self (by obtain hp | hp := hp <;> simp [hp, settleLines, hrest])
  have hquiet : step s = s.quietStep := by
    obtain hp | hp := hp
    · rw [step_nil (hself.symm ▸ hp), hself]
    · rw [step_waitIdle (hself.symm ▸ hp), hself]
  rw [hquiet, State.quietStep_inFlight (Engine.inFlight_busy hs), exec_decodeWord]
  rfl

/-- Up to the end of a word in flight a host that waits for idle does what one at its end does, and keeps its
WAITIDLE (R83). -/
theorem run_waitIdle {s t : State} {w : Word} {k m : Nat} (hp : s.prod.program = []) (hcfg : s.cfg = Params.ref)
    (h : s.eng.Runs Params.ref w k) (hm : m = k + 1) (hrun : Host.Core.run core m s = .next t) :
    Host.Core.run core m (s.withProgram [.waitIdle]) = .next (t.withProgram [.waitIdle]) := by
  subst hm
  have hstep : step (s.withProgram [.waitIdle]) = .next ((s.clock In.trigger).withProgram [.waitIdle]) :=
    step_busy h.busy (.inr rfl)
  refine (run_succ hstep k).trans ?_
  rw [run_succ (step_busy h.busy (.inl hp))] at hrun
  cases k with
  | zero =>
    obtain rfl := Host.Outcome.next.inj hrun
    rfl
  | succ k =>
    obtain ⟨hnext, -⟩ := h.tick (inp := In.trigger) (by decide) (by decide) rfl
    rw [← hcfg, ← State.clock_eng, hcfg] at hnext
    exact run_waitIdle (s := s.clock In.trigger) hp hcfg hnext rfl hrun

/-- A word that has just been taken has the whole of its time before it (R141). -/
theorem State.Starts.runs {s : State} {w : Word} {rest : List Word} (h : s.Starts w rest) (hinv : s.eng.Inv) :
    s.eng.Runs Params.ref s.eng.active (5 + (fieldsOf w).timerLoad.toNat) := by
  have ⟨_, hrem⟩ := Engine.fire_iff.1 h.timer
  refine ⟨hinv, h.busy, rfl, ?_⟩
  rw [Engine.ticksLeft_high _ h.sending, Engine.nibbleLeft_timer _ h.pulse, h.fields]
  simp [Params.ref]
  omega

/-- Under WAITIDLE too a word runs its two nibbles and its delay, and then the engine advances (R83, R140). -/
theorem State.Starts.word_passes_waitIdle {s : State} {w : Word} {rest : List Word} (h : s.Starts w rest)
    (hinv : s.eng.Inv) :
    let f := fieldsOf w
    (s.withProgram [.waitIdle]).Passes (6 + f.timerLoad.toNat) ((s.eng.wordDone f).advanceOp Params.ref)
      [⟨s.now + 3, f.isData, f.hi⟩, ⟨s.now + 6, f.isData, f.lo⟩] :=
  run_waitIdle h.program h.cfg (h.runs hinv) (by omega) h.word_passes

/-- Under WAITIDLE too the words run back to back, with their latch events on schedule, and leave the machine at rest
with the last word's levels on the lines (R62, R83, R141). -/
theorem State.Starts.drain_passes_waitIdle {s : State} {w : Word} {rest : List Word} (h : s.Starts w rest)
    (hinv : s.eng.Inv) :
    let last := fieldsOf ((w :: rest).getLast (List.cons_ne_nil w rest))
    ∃ e : Engine, (s.withProgram [.waitIdle]).Passes (scheduledTicks (w :: rest)) e (scheduled s.now (w :: rest))
      ∧ e.Drained last.lo ∧ e.RS = last.isData := by
  induction rest generalizing s w with
  | nil => exact ⟨_, h.word_passes_waitIdle hinv, h.drained, (Engine.advanceOp_lines _ _).1⟩
  | cons v rest ih =>
    have hword := h.word_passes_waitIdle hinv
    have hinv' := inv_of_run (s := s.withProgram [.waitIdle]) hinv hword
    obtain ⟨e, hpasses, hdrained, hselect⟩ := ih (h.next _ _) hinv'
    rw [State.passed_now, ← Nat.add_assoc] at hpasses
    exact ⟨e, hword.trans hpasses, hdrained, hselect⟩

/-! ## The whole bootstrap -/

/-- The words that the bootstrap pushes, oldest first (R171). -/
def bootWords (p : Params) : List Word :=
  [functionSetWord p, displayOffWord p, clearDisplayWord p, entryModeSetWord p, displayOnWord p]

theorem bootWords_length (p : Params) : (bootWords p).length = 5 := rfl

/-- SETRUN leaves an engine at rest (R139). -/
theorem Engine.DirectResting.running {e : Engine} (h : e.DirectResting) : Engine.Resting { e with run := true } := by
  have ⟨hq, _, _, _, _, hidle, htRem, hpRem, _⟩ := h.inv
  obtain ⟨ht, -⟩ := hidle h.state
  have hsit : Engine.Situation { e with run := true } := .resting h.state ht (htRem ht) h.pulse (hpRem h.pulse)
  exact ⟨Engine.inv_iff_situation.2 ⟨hq, hsit⟩, h.state, h.pulse, h.enable⟩

/-- From the fall of EN after the fourth nibble to the trigger: the last WAIT, SETRUN and the five words (R171,
R176). -/
theorem State.proceeds_runLines {s : State} {v : Nat} (h : s.eng.DirectResting) (hq : s.eng.q = [])
    (hp : s.prod.program = .wait v :: runLines s.cfg) :
    s.Proceeds (v + 6) { s.eng with run := true, q := bootWords s.cfg } [.op .advance, .waitIdle] [] := by
  have hsetRun := State.proceeds_setRun (s := (s.passed v s.eng []).withProgram (runLines s.cfg)) h rfl
  have hrun := State.proceeds_after_wait h.toResting hp (by omega) (hsetRun.trans
    (State.proceeds_pushes (ws := bootWords s.cfg) h.running (by simp [hq, bootWords_length]) rfl))
  simpa [Engine.withQueue, hq, bootWords_length] using hrun

/-- A trigger before WAITIDLE drains the queue of an engine at rest in run mode (R62, R83, R129). -/
theorem State.proceeds_drain {s : State} {w : Word} {rest : List Word} (h : s.eng.Resting) (hr : s.eng.run = true)
    (hq : s.eng.q = w :: rest) (hcfg : s.cfg = Params.ref) (hp : s.prod.program = [.op .advance, .waitIdle]) :
    let last := fieldsOf ((w :: rest).getLast (List.cons_ne_nil w rest))
    ∃ e : Engine, s.Proceeds (1 + scheduledTicks (w :: rest)) e [.waitIdle] (scheduled (s.now + 1) (w :: rest))
      ∧ e.Drained last.lo ∧ e.RS = last.isData := by
  have ⟨_, _, _, _, _, hidle, _⟩ := h.inv
  obtain ⟨ht, -⟩ := hidle h.state
  have hstarts := State.starts_of_trigger hr h.state ht h.pulse h.enable hq hcfg
  obtain ⟨e, hpasses, hdrained⟩ := hstarts.drain_passes_waitIdle (Engine.tickWord_inv s.cfg _ In.trigger h.inv)
  have htrigger := State.proceeds_of_step (step_trigger hp) rfl rfl
  exact ⟨e, (htrigger.trans hpasses).congr rfl (by rw [latchOf_off _ _ h.enable]; rfl), hdrained⟩

/-- The drain after a run that leaves the engine at rest in run mode before ADVANCE and WAITIDLE. -/
theorem State.Proceeds.drain {s : State} {k : Nat} {e : Engine} {w : Word} {rest : List Word} {ls : List Latch}
    (h : s.Proceeds k e [.op .advance, .waitIdle] ls) (he : e.Resting) (hr : e.run = true) (hq : e.q = w :: rest)
    (hcfg : s.cfg = Params.ref) :
    let last := fieldsOf ((w :: rest).getLast (List.cons_ne_nil w rest))
    ∃ e' : Engine, s.Proceeds (k + (1 + scheduledTicks (w :: rest))) e' [.waitIdle]
        (ls ++ scheduled (s.now + k + 1) (w :: rest))
      ∧ e'.Drained last.lo ∧ e'.RS = last.isData := by
  obtain ⟨e', hdrain, hend⟩ :=
    State.proceeds_drain (s := (s.passed k e ls).withProgram [.op .advance, .waitIdle]) he hr hq hcfg rfl
  exact ⟨e', h.trans hdrain, hend⟩

/-- The schedule of the bootstrap's words at the reference parameters, the first of them in flight from tick `t` on
(R179). -/
theorem scheduled_bootWords (t : Nat) : scheduled t (bootWords Params.ref) =
    [⟨t + 3, false, 0x2⟩, ⟨t + 6, false, 0x8⟩, ⟨t + 48, false, 0x0⟩, ⟨t + 51, false, 0x8⟩, ⟨t + 93, false, 0x0⟩,
     ⟨t + 96, false, 0x1⟩, ⟨t + 1629, false, 0x0⟩, ⟨t + 1632, false, 0x6⟩, ⟨t + 1674, false, 0x0⟩,
     ⟨t + 1677, false, 0xC⟩] := by
  simp [scheduled, bootWords, functionSetWord, displayOffWord, clearDisplayWord, entryModeSetWord, displayOnWord,
    WordFields.timerLoad, WordFields.hi, WordFields.lo, Params.ref, Config.shortDelay, Config.clearDelay]

/-- The four nibbles' events at the reference parameters (R179). -/
theorem bootNibbles_ref (t : Nat) : bootNibbles Params.ref t =
    [⟨t + 15008, false, 0x3⟩, ⟨t + 19114, false, 0x3⟩, ⟨t + 19220, false, 0x3⟩, ⟨t + 19266, false, 0x2⟩] := rfl

/-- The events of the bootstrap: the four nibbles, and then the words on schedule (R179). -/
theorem bootEvents_ref (t : Nat) :
    bootNibbles Params.ref t ++ scheduled (t + (fourthFall Params.ref + (39 + 6)) + 1) (bootWords Params.ref) =
      [⟨t + 15008, false, 0x3⟩, ⟨t + 19114, false, 0x3⟩, ⟨t + 19220, false, 0x3⟩,
       ⟨t + 19266, false, 0x2⟩, ⟨t + 19315, false, 0x2⟩, ⟨t + 19318, false, 0x8⟩,
       ⟨t + 19360, false, 0x0⟩, ⟨t + 19363, false, 0x8⟩, ⟨t + 19405, false, 0x0⟩,
       ⟨t + 19408, false, 0x1⟩, ⟨t + 20941, false, 0x0⟩, ⟨t + 20944, false, 0x6⟩,
       ⟨t + 20986, false, 0x0⟩, ⟨t + 20989, false, 0xC⟩] := by
  have hstart : t + (fourthFall Params.ref + (39 + 6)) + 1 = t + 19312 := rfl
  rw [bootNibbles_ref, hstart, scheduled_bootWords]
  rfl

/-- Settles O51: the four nibbles, the way to run mode, and the drain of the five words. -/
theorem bootstrapProducesTheFourteenEvents : Obligations.BootstrapProducesTheFourteenEvents := by
  intro s hcfg hp
  have hwf : s.cfg.wf := hcfg ▸ (by decide)
  have hrest := s.eng.resetState_directResting.showing 2
  have hfalls := State.proceeds_bootNibbles (v := 39) hwf hp (by rw [hcfg]; rfl)
  have hready := hfalls.trans_silent (State.proceeds_runLines hrest rfl rfl)
  obtain ⟨e, hdrain, ⟨hstate, hqueue, hrun, hen, hlines⟩, hselect⟩ :=
    hready.drain (hrest.running.withQueue (q := bootWords s.cfg) (by rw [bootWords_length]; decide)) rfl rfl hcfg
  have hticks : fourthFall s.cfg + (39 + 6) + (1 + scheduledTicks (bootWords s.cfg)) = 21028 := by rw [hcfg]; rfl
  have hevents := congrArg (s.eng.resetLatch (s.now + 1) ++ ·) (bootEvents_ref s.now)
  rw [← hcfg] at hevents
  have htotal := hdrain.congr hticks ((List.append_assoc _ _ _).trans hevents)
  have hlast : fieldsOf (displayOnWord s.cfg) = ⟨false, 39, 0x0C⟩ := by rw [hcfg]; exact fieldsOf_pack ..
  exact ⟨_, htotal, ⟨hrun, Engine.isIdle_iff.2 hstate, Engine.empty_iff.2 hqueue⟩,
    hlines.trans (congrArg WordFields.lo hlast), hselect.trans (congrArg WordFields.isData hlast), hen, rfl,
    (List.append_assoc _ _ _).symm⟩

end Sys2Proof.Machine

namespace Sys2Proof.Machine

/-! # The character writer (45_character_writer) -/

/-! ## The cursor functions -/

/-- Below the end of its line the cursor steps on by one (R187). -/
theorem cursorNext_of_inside {a : Addr} (h : a.toNat < 0x0F ∨ (0x40 ≤ a.toNat ∧ a.toNat < 0x4F)) :
    cursorNext a = a + 1 := by
  unfold cursorNext
  rw [if_neg (by omega), if_neg (by omega)]
  bv_omega

/-- From the end of line 1 on, over the hidden range, the cursor snaps to the start of line 2 (R187). -/
theorem cursorNext_of_hidden {a : Addr} (h : 0x0F ≤ a.toNat) (h' : a.toNat ≤ 0x3F) : cursorNext a = 0x40 := by
  unfold cursorNext
  obtain hlt | heq : a.toNat + 1 ≤ 0x3F ∨ a.toNat + 1 = 0x40 := by omega
  · rw [if_pos (by omega)]
  · rw [heq]
    decide

/-- From the end of line 2 on the cursor wraps to the start of line 1 (R187). -/
theorem cursorNext_of_end {a : Addr} (h : 0x4F ≤ a.toNat) : cursorNext a = 0x00 := by
  unfold cursorNext
  rw [if_neg (by omega), if_pos (by omega)]

/-- But for the start of line 2 the cursor steps back by one (R187). -/
theorem cursorPrev_of_ne {a : Addr} (h : a ≠ 0x40) : cursorPrev a = a - 1 := if_neg h

/-- From a visible address the cursor steps on within its line, or stands at the end of line 1 or line 2 (R187). -/
theorem cursorNext_cases {a : Addr} (h : visible a) :
    ((a.toNat < 0x0F ∨ (0x40 ≤ a.toNat ∧ a.toNat < 0x4F)) ∧ cursorNext a = a + 1)
      ∨ (a = 0x0F ∧ cursorNext a = 0x40) ∨ (a = 0x4F ∧ cursorNext a = 0x00) := by
  by_cases hin : a.toNat < 0x0F ∨ (0x40 ≤ a.toNat ∧ a.toNat < 0x4F)
  · exact .inl ⟨hin, cursorNext_of_inside hin⟩
  · obtain hend | hend : a.toNat = 0x0F ∨ a.toNat = 0x4F := by unfold visible at h; omega
    · exact .inr (.inl ⟨BitVec.eq_of_toNat_eq hend, cursorNext_of_hidden hend.ge (by omega)⟩)
    · exact .inr (.inr ⟨BitVec.eq_of_toNat_eq hend, cursorNext_of_end hend.ge⟩)

/-- `next` keeps the visible range (R187). -/
theorem visible_cursorNext {a : Addr} (h : visible a) : visible (cursorNext a) := by
  obtain ⟨hin, hnext⟩ | ⟨-, hnext⟩ | ⟨-, hnext⟩ := cursorNext_cases h <;> rw [hnext]
  · unfold visible; bv_omega
  · decide
  · decide

/-- `prev` keeps the visible range above 0 (R187). -/
theorem visible_cursorPrev {a : Addr} (h : visible a) (h0 : a ≠ 0) : visible (cursorPrev a) := by
  by_cases h40 : a = 0x40
  · subst h40; decide
  · rw [cursorPrev_of_ne h40]
    unfold visible at *
    bv_omega

/-- `prev` undoes `next`, where that does not wrap to 0 (R187). -/
theorem cursorPrev_cursorNext {a : Addr} (h : visible a) (hend : a ≠ 0x4F) : cursorPrev (cursorNext a) = a := by
  obtain ⟨hin, hnext⟩ | ⟨rfl, -⟩ | ⟨hwrap, -⟩ := cursorNext_cases h
  · rw [hnext, cursorPrev_of_ne (by bv_omega)]
    bv_omega
  · decide
  · exact absurd hwrap hend

/-- Settles O46: one rule for each part of the address range. -/
theorem cursorStepsAndWraps : Obligations.CursorStepsAndWraps :=
  ⟨by decide, by decide, by decide, fun _ => cursorNext_of_inside, fun _ => cursorNext_of_hidden,
    fun _ => cursorNext_of_end, fun _ _ => cursorPrev_of_ne, fun _ => visible_cursorNext,
    fun _ => visible_cursorPrev, fun _ => cursorPrev_cursorNext, by decide, by decide⟩

/-! ## The reset state -/

/-- Settles O3: the reset state is at rest, and its host has nothing left to do. -/
theorem resetMeetsEveryInvariant : Obligations.ResetMeetsEveryInvariant := by
  have hidle : State.reset.prod.program = [] := rfl
  have hinv : State.reset.eng.Inv :=
    Engine.inv_iff_situation.2 ⟨reset_queueWf, .resting rfl rfl rfl rfl rfl⟩
  exact ⟨hinv, by decide, ⟨by decide, by simp [hidle]⟩, by simp [Producer.SparesEn, hidle], by decide⟩

/-! ## The cursor stays visible -/

/-- A held line is a host operation: the program left assigns the cursor as the lines after it do (R83). -/
@[simp] theorem setCursor_mem_heldProgram {e : Engine} {h : HostWord} {rest : List Line} {a : Addr} :
    Line.setCursor a ∈ heldProgram e h rest ↔ Line.setCursor a ∈ rest := by
  unfold heldProgram
  split <;> simp

/-- A program that makes no other cursor assignment keeps the cursor as visible as it is. -/
theorem Producer.CursorVisible.withProgram {s : State} {lines : List Line} (h : s.prod.CursorVisible)
    (hlines : ∀ a, Line.setCursor a ∈ lines → Line.setCursor a ∈ s.prod.program) :
    (s.withProgram lines).prod.CursorVisible := by
  obtain ⟨hcursor, hprogram⟩ := h
  exact ⟨hcursor, fun a ha => hprogram a (hlines a ha)⟩

/-- The lines without a tick take the cursor to visible addresses only (R83). -/
theorem settleLines_cursorVisible {b : Bool} {lines : List Line} {c : Addr}
    (h : Producer.CursorVisible ⟨c, lines⟩) :
    Producer.CursorVisible ⟨(settleLines b lines c).2, (settleLines b lines c).1⟩ := by
  obtain ⟨hcursor, hlines⟩ := h
  change visible c at hcursor
  fun_induction settleLines b lines c with
  | case1 _ _ ih => exact ih (fun a ha => hlines a (List.mem_cons_of_mem _ ha)) hcursor
  | case2 _ _ _ ih => exact ih (fun a ha => hlines a (List.mem_cons_of_mem _ ha)) hcursor
  | case3 => exact ⟨hcursor, hlines⟩
  | case4 _ _ _ ih =>
    exact ih (fun a ha => hlines a (List.mem_cons_of_mem _ ha)) (hlines _ List.mem_cons_self)
  | case5 => exact ⟨hcursor, hlines⟩

/-- A macro that assigns visible addresses only keeps the cursor visible (R84). -/
theorem State.runMacro_cursorVisible {s : State} {first : HostWord} {more : List Line}
    (h : s.prod.CursorVisible) (hmore : ∀ a, Line.setCursor a ∈ more → visible a) :
    (s.runMacro first more).prod.CursorVisible := by
  obtain ⟨hcursor, hlines⟩ := h
  refine ⟨hcursor, fun a ha => ?_⟩
  obtain ha | ha := List.mem_append.1 (setCursor_mem_heldProgram.1 ha)
  · exact hmore a ha
  · exact hlines a ha

/-- `SEND_NIBBLE` assigns no cursor (R99). -/
theorem State.startNibble_cursorVisible {s : State} (n : Nibble) (h : s.prod.CursorVisible) :
    (s.startNibble n).prod.CursorVisible :=
  State.runMacro_cursorVisible h (by simp [sendNibbleRest])

/-- A backspace at cursor 0 is the tick of its trigger (R189, R191). -/
theorem exec_backspace_home {s : State} (h : s.prod.cursor = 0) :
    exec .writeCharBackspace s = .next (s.clock In.trigger) := if_pos h

/-- A backspace elsewhere steps the cursor back and expands into three words and the trigger (R189). -/
theorem exec_backspace {s : State} (h : s.prod.cursor ≠ 0) :
    exec .writeCharBackspace s = .next
      (State.runMacro { s with prod := ⟨cursorPrev s.prod.cursor, s.prod.program⟩ }
        (.push (cursorSetWord s.cfg (cursorPrev s.prod.cursor)))
        [.op (.push (dataWriteWord s.cfg 0x20)), .op (.push (cursorSetWord s.cfg (cursorPrev s.prod.cursor))),
         .op .advance]) := if_neg h

/-- The meaning of every instruction keeps the cursor visible: only the three branches of `writeCharacter` move it
(R186, R188 to R190). -/
theorem exec_keepsCursorVisible {i : Instr} {s t : State} (h : s.prod.CursorVisible) (he : exec i s = .next t) :
    t.prod.CursorVisible := by
  have ⟨hcursor, hlines⟩ := h
  cases i with
  | writeCharTilde =>
    obtain rfl := Host.Outcome.next.inj he
    exact State.runMacro_cursorVisible h (by simp [visible])
  | writeCharBackspace =>
    by_cases h0 : s.prod.cursor = 0
    · obtain rfl := Host.Outcome.next.inj ((exec_backspace_home h0).symm.trans he)
      exact h
    · obtain rfl := Host.Outcome.next.inj ((exec_backspace h0).symm.trans he)
      exact State.runMacro_cursorVisible ⟨visible_cursorPrev hcursor h0, hlines⟩ (by simp)
  | writeCharOther c =>
    obtain rfl := Host.Outcome.next.inj he
    exact State.runMacro_cursorVisible h (by simpa using visible_cursorNext hcursor)
  | initCall =>
    obtain rfl := Host.Outcome.next.inj he
    exact State.runMacro_cursorVisible h (by simp [initializeRest, waitAfterPulse])
  | sendNibble | sendNibble3 | sendNibble2 =>
    obtain rfl := Host.Outcome.next.inj he
    exact State.startNibble_cursorVisible _ h
  | _ =>
    obtain rfl := Host.Outcome.next.inj he
    exact h

/-- A tick without a request keeps the cursor visible. -/
theorem State.quietStep_keepsCursorVisible {s t : State} (h : s.prod.CursorVisible) (hq : s.quietStep = .next t) :
    t.prod.CursorVisible := by
  obtain ⟨inp, hinp, -⟩ := s.quietStep_eq
  obtain rfl := Host.Outcome.next.inj (hinp.symm.trans hq)
  exact h

/-- The line at the head of the program keeps the cursor visible (R83). -/
theorem State.lineStep_keepsCursorVisible {s t : State} (h : s.prod.CursorVisible) (hl : s.lineStep = .next t) :
    t.prod.CursorVisible := by
  unfold State.lineStep at hl
  split at hl
  next op rest hp =>
    split at hl
    next => exact exec_keepsCursorVisible (h.withProgram (by simp [hp])) hl
    next => exact State.quietStep_keepsCursorVisible (h.withProgram (by simp [hp])) hl
    next => exact nomatch hl
  next inp rest hp =>
    obtain rfl := Host.Outcome.next.inj hl
    exact h.withProgram (by simp [hp])
  next n rest hp => exact State.quietStep_keepsCursorVisible (h.withProgram (by simp [hp])) hl
  next => exact State.quietStep_keepsCursorVisible h hl

/-- Settles O6: the lines without a tick keep the cursor visible, and so does the line that takes the tick. -/
theorem stepKeepsTheCursorVisible : Obligations.StepKeepsTheCursorVisible := fun _ _ h hstep =>
  State.lineStep_keepsCursorVisible (settleLines_cursorVisible h) hstep

/-! ## The expansion of writeCharacter -/

/-- A macro that begins with a push, where the queue has room: the word is appended beside whatever else the tick
does, and the other lines are the program's next ones (R84, R111). -/
theorem State.runMacro_push_room {s : State} (w : Word) (more : List Line) (h : s.eng.pushReady = true) :
    s.runMacro (.push w) more = { s.clock In.quiet with
      eng := { (s.clock In.quiet).eng with q := (s.clock In.quiet).eng.q ++ [w] }
      prod := ⟨s.prod.cursor, more ++ s.prod.program⟩ } := by
  have hheld : heldProgram s.eng (.push w) (more ++ s.prod.program) = more ++ s.prod.program := if_pos h
  unfold State.runMacro State.clock
  rw [hheld, State.withProgram_eng, State.withProgram_cfg]
  exact congrArg _ (Engine.tick_push_room s.cfg w h)

/-- Settles O48: each branch but that of backspace at 0 begins with a push. -/
theorem writeCharacterExpands : Obligations.WriteCharacterExpands := by
  intro s hroom
  replace hroom := Engine.pushReady_iff.2 hroom
  exact ⟨congrArg Host.Outcome.next (State.runMacro_push_room _ _ hroom), exec_backspace_home,
    fun h => (exec_backspace h).trans (congrArg Host.Outcome.next (State.runMacro_push_room _ _ hroom)),
    fun _ => congrArg Host.Outcome.next (State.runMacro_push_room _ _ hroom)⟩

/-! ## A whole call of writeCharacter -/

/-- An engine at rest passes a tick without a request, whatever the level of EN (R152). -/
theorem State.clock_quiet_resting {s : State} (hinv : s.eng.Inv) (hs : s.eng.state = .idle)
    (hp : s.eng.pPhase = .idle) : s.clock In.quiet = { s with now := s.now + 1 } :=
  State.clock_silent (Engine.tick_noRequest_resting s.cfg hinv hs hp rfl) (latchOf_same _ rfl)

/-- A booted engine is at rest in run mode (R41, R177). -/
theorem Engine.booted.rest {e : Engine} (h : e.booted) (hinv : e.Inv) :
    e.run = true ∧ e.state = .idle ∧ e.pPhase = .idle ∧ e.q = [] := by
  obtain ⟨hrun, hidle, hempty⟩ := h
  obtain ⟨-, -, -, -, -, hrest, -⟩ := hinv
  rw [Engine.isIdle_iff] at hidle
  obtain ⟨-, hpulse⟩ := hrest hidle
  exact ⟨hrun, hidle, hpulse hrun, Engine.empty_iff.1 hempty⟩

/-- The machine in a call of writeCharacter that began in `s`: it has queued these words, one in each tick, the cursor
is at `c`, and these lines are left (R192). -/
def State.calling (s : State) (ws : List Word) (c : Addr) (lines : List Line) : State :=
  { s with eng := s.eng.withQueue ws, prod := ⟨c, lines⟩, now := s.now + ws.length }

/-- The machine after a call that began in `s`: its first word is in flight, the others are queued (R131, R192). -/
def State.called (s : State) (w : Word) (rest : List Word) (c : Addr) : State :=
  { s with
    eng := { s.eng with q := rest, active := w, state := .sendingHigh, tArmed := true, tRem := s.cfg.minTicks }
    prod := ⟨c, []⟩
    now := s.now + (rest.length + 2) }

section
variable {s : State} (hinv : s.eng.Inv) (hboot : s.eng.booted)
include hinv hboot

/-- The first word of a call (R111, R192). -/
theorem State.calling_first (w : Word) (c : Addr) (lines : List Line) :
    { (s.withProgram []).clock In.quiet with
      eng := { ((s.withProgram []).clock In.quiet).eng with
        q := ((s.withProgram []).clock In.quiet).eng.q ++ [w] }
      prod := ⟨c, lines⟩ } = s.calling [w] c lines := by
  obtain ⟨-, hs, hp, hq⟩ := hboot.rest hinv
  rw [State.clock_quiet_resting (s := s.withProgram []) hinv hs hp]
  simp [State.calling, Engine.withQueue, hq]

/-- A further word of a call (R83, R111). -/
theorem State.run_calling_push {ws : List Word} (hroom : ws.length < 10) (w : Word) (c : Addr) (rest : List Line)
    (k : Nat) :
    Host.Core.run core (k + 1) (s.calling ws c (.op (.push w) :: rest))
      = Host.Core.run core k (s.calling (ws ++ [w]) c rest) := by
  obtain ⟨-, hs, hp, -⟩ := hboot.rest hinv
  obtain ⟨-, hinv⟩ := hinv
  have hinv' : (s.calling ws c rest).eng.Inv := ⟨hroom.le, hinv⟩
  have hstep : step (s.calling ws c (.op (.push w) :: rest)) = exec (.push w) (s.calling ws c rest) :=
    step_op_done rfl rfl Instr.noConfusion (Engine.pushReady_iff.2 hroom)
  obtain ⟨happend, -⟩ := pushAppendsOrWaits w (s.calling ws c rest)
  refine run_succ ?_ k
  rw [hstep, happend hroom, State.clock_quiet_resting hinv' hs hp]
  simp [State.calling, Engine.withQueue, Nat.add_assoc]

/-- The trigger of a call takes the first of its words (R129, R192). -/
theorem State.run_calling_advance {ws : List Word} (hroom : ws.length < 10) (w : Word) (c : Addr) :
    Host.Core.run core 1 (s.calling (w :: ws) c [.op .advance]) = .next (s.called w ws c) := by
  obtain ⟨hrun, hs, -, -⟩ := hboot.rest hinv
  obtain ⟨-, hinv⟩ := hinv
  have hstep : step (s.calling (w :: ws) c [.op .advance]) = exec .advance (s.calling (w :: ws) c []) :=
    step_trigger rfl
  exact run_succ (hstep.trans (advanceStartsAnIdleMachine _ ⟨hroom, hinv⟩ hrun hs)) 0

end

/-- A cursor assignment in a call takes no tick (R83, R188, R190). -/
theorem State.run_calling_setCursor (s : State) (ws : List Word) (c a : Addr) (rest : List Line) (k : Nat) :
    Host.Core.run core (k + 1) (s.calling ws c (.setCursor a :: rest))
      = Host.Core.run core (k + 1) (s.calling ws a rest) := by
  have hstep : core.step (s.calling ws c (.setCursor a :: rest)) = core.step (s.calling ws a rest) := by
    simp only [core, step, State.settled, State.calling, settleLines, Engine.atRest]
  simp only [Host.Core.run, hstep]

/-- Settles O49: the first tick of the branch's expansion, its further words, and the trigger. -/
theorem writeCharacterCall : Obligations.WriteCharacterCall := by
  intro s c hinv hboot hp started
  obtain ⟨hrun, hidle, -, hq⟩ := hboot.rest hinv
  have hroom : (s.withProgram []).eng.q.length < 10 := by simp [hq]
  obtain ⟨htilde, hhome, hback, hother⟩ := writeCharacterExpands (s.withProgram []) hroom
  have hline {i : Instr} (hd : decodeHost (.char c) = .ok i) (hi : i ≠ .advance) :
      step s = exec i (s.withProgram []) := step_op_done hp hd hi rfl
  refine ⟨?_, ?_, ?_, fun htildeNe hbackNe => ?_⟩
  · rintro rfl
    rw [run_succ ((hline rfl Instr.noConfusion).trans htilde), State.calling_first hinv hboot]
    exact (s.run_calling_setCursor ..).trans (State.run_calling_advance hinv hboot (by simp) ..)
  · rintro rfl hhere
    have htick := advanceStartsAnIdleMachine (s.withProgram []) hinv hrun hidle
    rw [State.withProgram_eng, hq] at htick
    rw [← hhere]
    exact run_succ ((hline rfl Instr.noConfusion).trans ((hhome hhere).trans htick)) 0
  · rintro rfl hhere
    rw [run_succ ((hline rfl Instr.noConfusion).trans (hback hhere)), State.calling_first hinv hboot]
    exact (State.run_calling_push hinv hboot (by simp) ..).trans
      ((State.run_calling_push hinv hboot (by simp) ..).trans
        (State.run_calling_advance hinv hboot (by simp) ..))
  · have hd : decodeHost (.char c) = .ok (.writeCharOther c) := by
      rw [decodeHost, decodeChar, if_neg htildeNe, if_neg hbackNe]
    rw [run_succ ((hline hd Instr.noConfusion).trans (hother c)), State.calling_first hinv hboot]
    exact (State.run_calling_push hinv hboot (by simp) ..).trans
      ((s.run_calling_setCursor ..).trans (State.run_calling_advance hinv hboot (by simp) ..))

end Sys2Proof.Machine

/-! # Exceptions: what is turned away, and what coincides (60_exceptions) -/

namespace Sys2Proof.Machine

/-! ## Every instruction answers -/

/-- An instruction word answers with its tick (R205). -/
theorem exec_wordOf_answers {i : Instr} {f : WordFields} (s : State) (h : wordOf i = some f) :
    ∃ t, exec i s = .next t ∧ t.cfg = s.cfg :=
  ⟨_, exec_wordOf s h, rfl⟩

/-- Settles O9: an instruction word is a tick of the word, each request a tick of its levels, a pseudo-instruction a
tick of its first line, and POP the dequeue. -/
theorem everyInstructionAnswersNext : Obligations.EveryInstructionAnswersNext := by
  intro i s
  cases i with
  | cmd | dataWrite | functionSet | displayOff | clearDisplay | entryModeSet | displayOn | cursorSet
  | dataWriteWriter => exact exec_wordOf_answers s rfl
  | setLevel | pulseEnable | setLevelPulse | push | advance | setRun | reset | pop
  | sendNibble | sendNibble3 | sendNibble2 | writeCharTilde | writeCharOther | initCall => exact ⟨_, rfl, rfl⟩
  | writeCharBackspace =>
    unfold exec execWriteCharBackspace
    dsimp only
    split <;> exact ⟨_, rfl, rfl⟩

/-! ## Where a step stops -/

/-- No direct-port pattern is rejected as a malformed nibble (R79). -/
theorem decodeDirect_ne_nibSelectsData (v : BitVec 6) : decodeDirect v ≠ .error .nibSelectsData := by
  unfold decodeDirect
  split <;> simp

/-- A nibble pattern is rejected where its `rs` is 1 (R80). -/
theorem decodeNibble_nibSelectsData_iff (v : BitVec 5) :
    decodeNibble v = .error .nibSelectsData ↔ v.getLsbD 4 = true := by
  unfold decodeNibble
  split
  next hv => exact iff_of_true rfl hv
  next hv =>
    refine iff_of_false ?_ hv
    repeat' split
    all_goals simp

/-- The decoder rejects as malformed exactly the nibble patterns with `rs = 1` (R80). -/
theorem decodeHost_nibSelectsData_iff {h : HostWord} :
    decodeHost h = .error .nibSelectsData ↔ ∃ v, h = .nib v ∧ v.getLsbD 4 = true := by
  cases h with
  | dp v => simp [decodeHost, decodeDirect_ne_nibSelectsData]
  | nib v => simp only [decodeHost, decodeNibble_nibSelectsData_iff, HostWord.nib.injEq, exists_eq_left']
  | push | advance | setRun | reset | char | initCall => simp [decodeHost]

/-- A step is refused at a malformed nibble pattern (R80). -/
theorem step_malformed {s : State} {v : BitVec 5} {rest : List Line}
    (hp : s.settled.prod.program = .op (.nib v) :: rest) (hv : v.getLsbD 4 = true) :
    step s = .refused (.undecodable .nibSelectsData) := by
  unfold step State.lineStep
  simp only [hp, decodeHost_nibSelectsData_iff.2 ⟨v, rfl, hv⟩]

/-- A tick in which the host presents nothing answers a next state (R227). -/
theorem State.quietStep_answers (s : State) : ∃ t, s.quietStep = .next t := by
  obtain ⟨inp, h, -⟩ := s.quietStep_eq
  exact ⟨_, h⟩

/-- Where the host's next line is not rejected as malformed, a step answers a next state (R205, R227). -/
theorem step_answers {s : State}
    (h : ∀ op rest, s.settled.prod.program = .op op :: rest → decodeHost op ≠ .error .nibSelectsData) :
    ∃ t, step s = .next t := by
  unfold step State.lineStep
  split
  next op rest hp =>
    split
    next i _ =>
      obtain ⟨t, ht, -⟩ := everyInstructionAnswersNext (s.settled.issued i)
        (s.settled.withProgram (heldProgram s.settled.eng op rest))
      exact ⟨t, ht⟩
    next => exact State.quietStep_answers _
    next r hr hd =>
      cases r with
      | noRequest => exact absurd rfl hr
      | nibSelectsData => exact absurd hd (h op rest hp)
  next => exact ⟨_, rfl⟩
  next => exact State.quietStep_answers _
  next => exact State.quietStep_answers _

/-- Settles O10: the malformed pattern is the one line that neither decodes nor passes as a tick without a request. -/
theorem stepStopsOnlyAtAMalformedNibble : Obligations.StepStopsOnlyAtAMalformedNibble := by
  intro s
  split
  next v rest hp =>
    split
    next hv => exact step_malformed hp hv
    next hv =>
      refine step_answers fun op rest' hp' hd => ?_
      obtain ⟨v', rfl, hv'⟩ := decodeHost_nibSelectsData_iff.1 hd
      rw [hp] at hp'
      cases hp'
      exact hv hv'
  next hother =>
    refine step_answers fun op rest hp hd => ?_
    obtain ⟨v, rfl, -⟩ := decodeHost_nibSelectsData_iff.1 hd
    exact hother v rest hp

/-! ## The refusals RF1 to RF6 -/

/-- A trigger that does not decide the advance operation is a tick without it (R130, R137). -/
theorem Engine.tick_trigger_lost {e : Engine} (p : Params) (h : e.wantAdvance true = e.wantAdvance false) :
    e.tick p In.trigger = e.tick p In.quiet := by
  have hmachine (f : WordFields) : e.machineStep p f true = e.machineStep p f false := by
    unfold Engine.machineStep
    rw [h]
  have hquiet : e.tick p In.quiet = e.machineStep p (fieldsOf e.active) false := Engine.tick_noRequest p rfl
  rw [hquiet, ← hmachine]
  exact Engine.tickWord_noRequest p _ rfl

/-- In direct mode no trigger reaches the advance operation (R130). -/
theorem Engine.wantAdvance_directMode {e : Engine} (a b : Bool) (h : e.run = false) :
    e.wantAdvance a = e.wantAdvance b := by
  unfold Engine.wantAdvance
  rw [h, Bool.and_false, Bool.and_false]

/-- Requests of the direct port that its part of the tick ignores make no difference to the tick (R208). -/
theorem Engine.tick_direct_ignored {e : Engine} (p : Params) {inp : In} (hrst : inp.rst = false)
    (hpush : inp.pushValid = false) (hadv : inp.advance = false) (h : ∀ n, e.directStep n p inp = n) :
    e.tick p inp = e.tick p In.quiet := by
  have hquiet : e.tick p In.quiet = e.machineStep p (fieldsOf e.active) false := Engine.tick_noRequest p rfl
  rw [hquiet, Engine.tick, Engine.tickWord_live hrst, h, Engine.pushStep_eq, hpush, hadv]
  simp

/-- SETLEVEL of a reserved signal writes nothing, with the direct port open or closed (R91). -/
theorem Engine.directStep_reserved (s n : Engine) (p : Params) {g : BitVec 3} (b : Bool) (hg : 6 ≤ g.toNat) :
    s.directStep n p (In.direct false true g b) = n := by
  cases hd : s.dirReady with
  | false => exact Engine.directStep_closed n p _ hd
  | true =>
    have hlevel : n.levelStep (In.direct false true g b) = n := Engine.pinWrite_reserved b hg
    rw [Engine.directStep_open n p _ hd, hlevel]
    simp [In.direct]

/-- Ticks of the engine to the same state are the same tick of the machine. -/
theorem State.clock_congr {s : State} {inp inp' : In} (h : s.eng.tick s.cfg inp = s.eng.tick s.cfg inp') :
    s.clock inp = s.clock inp' :=
  congrArg s.ticked h

/-- Settles O23: a lost trigger, a closed direct port, a reserved signal, and a `set_run` that a pulse shuts out. -/
theorem refusedRequestsChangeNothing : Obligations.RefusedRequestsChangeNothing := by
  intro s
  have hrefused {inp : In} (h : s.eng.tick s.cfg inp = s.eng.tick s.cfg In.quiet) :
      (.next (s.clock inp) : Host.Outcome State Fault Refusal) = .next (s.clock In.quiet) :=
    congrArg Host.Outcome.next (State.clock_congr h)
  refine ⟨fun hrun => hrefused (Engine.tick_trigger_lost _ (Engine.wantAdvance_directMode _ _ hrun)),
    fun hbusy => hrefused (Engine.tick_trigger_lost _ (Engine.wantAdvance_busy _ _ hbusy)),
    fun g b hclosed => hrefused (Engine.tick_direct_closed _ false true g b hclosed),
    fun g b hg => hrefused (Engine.tick_direct_ignored _ rfl rfl rfl fun n => s.eng.directStep_reserved n _ b hg),
    fun hclosed => hrefused (Engine.tick_direct_closed _ true false 0 false hclosed),
    fun g b hclosed => hrefused (Engine.tick_direct_closed _ true true g b hclosed),
    fun hclosed => hrefused (Engine.tick_direct_ignored _ rfl rfl rfl fun n => Engine.directStep_closed n _ _ hclosed),
    fun inp hpulse => State.clock_congr ?_⟩
  exact (s.eng.tick_pulse_setRun _ true hpulse).trans (s.eng.tick_pulse_setRun _ false hpulse).symm

/-! ## Simultaneous events -/

/-- A push, with or without a trigger beside it: the pop and the room for the word are both judged by the old queue
(R115, R213). -/
theorem Engine.tick_push_q (e : Engine) (p : Params) (w : Word) (adv : Bool) :
    (e.tick p { In.pushOf w with advance := adv }).q
      = (if e.wantAdvance adv then e.q.drop 1 else e.q) ++ if e.q.length < 10 then [w] else [] := by
  rw [e.tick_q p rfl]
  simp [Engine.acceptedNow, In.pushOf, Engine.pushReady_iff]

/-- A push into an empty queue is accepted and its word waits, whatever advances (R213). -/
theorem Engine.tick_push_empty {e : Engine} (p : Params) (w : Word) (adv : Bool) (hq : e.q = []) :
    (e.tick p { In.pushOf w with advance := adv }).q = [w] := by
  rw [e.tick_push_q p w adv, hq]
  simp

/-- The tick of an open direct port: the level, then the pulse or else `set_run`; a trigger is lost (R96, R130,
R139). -/
theorem Engine.tick_requests_open {e : Engine} (p : Params) {inp : In} (h : e.Inv) (hd : e.dirReady = true)
    (hrst : inp.rst = false) (hpush : inp.pushValid = false) :
    e.tick p inp = if inp.dirPulse then (e.levelStep inp).raiseEnable p
      else { e.levelStep inp with run := (e.levelStep inp).run || inp.setRun } := by
  rw [Engine.tick_open p inp h hd hrst, Engine.directStep_open e p inp hd, Engine.pushStep_eq, hpush]
  simp

/-- Settles O32: what a tick does to the queue and the phase with an advance operation and without one, what a busy
machine does with a trigger, and what an open direct port does with the requests of one tick. -/
theorem simultaneousEvents : Obligations.SimultaneousEvents := by
  intro p e w
  refine ⟨fun hs hq => ⟨Engine.tick_push_empty p w true hq, ?_⟩,
    fun hs hf hq => ⟨Engine.tick_push_empty p w false hq, ?_⟩, fun hlen hw => ?_, fun _ hlen hw => ?_,
    fun hs hf => ⟨?_, ?_⟩, fun hs _ => ?_, fun hinv hopen => ?_, fun hinv hopen => ?_, fun hinv hopen g b => ?_,
    fun hinv hopen g b => ?_, Engine.not_fire_and_pulseDone⟩
  · cases hw : e.wantAdvance true with
    | true => exact (Engine.tickWord_state_advance rfl hw).trans (if_pos hq)
    | false => exact (Engine.tickWord_idle_iff rfl hw).2 hs
  · have hw : e.wantAdvance false = true := (e.wantAdvance_executing false hs).trans hf
    exact (Engine.tickWord_state_advance rfl hw).trans (if_pos hq)
  · have hq : (e.tick p { In.pushOf w with advance := true }).q = e.q.drop 1 := by
      simpa [hw, hlen] using e.tick_push_q p w true
    exact ⟨hq, Engine.pushReady_iff.2 (by simp [hq, hlen])⟩
  · rw [e.tick_push_q p w true, if_pos hw, if_pos hlen]
  · exact Engine.tick_trigger_lost p (Engine.wantAdvance_busy _ _ (by simp [hs]))
  · have hw : e.wantAdvance true = true := (e.wantAdvance_executing true hs).trans hf
    rw [e.tick_q p rfl]
    simp [In.trigger, hw, Engine.acceptedNow]
  · exact Engine.tick_trigger_lost p ((e.wantAdvance_sending true hs).trans (e.wantAdvance_sending false hs).symm)
  · rw [Engine.tick_requests_open p hinv hopen rfl rfl]
    simp [In.goRun, Engine.levelStep]
  · rw [Engine.tick_requests_open p hinv hopen rfl rfl]
    rfl
  · rw [Engine.tick_setLevel p g b hinv hopen, Engine.tick_requests_open p hinv hopen rfl rfl]
    simp [In.direct, Engine.levelStep]
  · rw [Engine.tick_setLevelPulse p g b hinv hopen, Engine.tick_setLevel p g b hinv hopen]
    exact ⟨rfl, fun k hk => e.pinWrite_D_bit g b hk, e.pinWrite_RS g b⟩

end Sys2Proof.Machine

namespace Sys2Proof.Machine

/-! ## Reset and the host side -/

/-- A RESET is the tick with `rst = 1` (R39, R230). -/
theorem exec_reset (s : State) : exec .reset s = .next (s.clock In.hardReset) := rfl

/-- Settles O2: a RESET is one tick of the clock, and a tick moves neither the host side nor the parameters. -/
theorem resetLeavesTheHostSide : Obligations.ResetLeavesTheHostSide := fun s =>
  ⟨s.clock In.hardReset, exec_reset s, s.clock_prod In.hardReset, s.clock_cfg In.hardReset,
    s.clock_now In.hardReset⟩

end Sys2Proof.Machine
